-- ==== Sys2Proof/Word.lean ====
section
/-! DEFINITION. The widths of the controller: bytes, 32-bit words, byte strings (spec/00_scope.md section 6). -/

namespace Sys2Proof

/-- One byte of system memory, of a block, of a key or of an IV. -/
abbrev Byte := BitVec 8

/-- A register value, a bus address or a length (10_state.md R20, 92 D2). -/
abbrev Word := BitVec 32

/-- A byte string, byte 0 first: lowest address first (20_memory.md R64). The lengths that `Bytes n` of the spec
carries are kept by the invariant of Safety.lean. -/
abbrev Bytes := List Byte

end Sys2Proof
end

