-- ==== Sys2Proof/Config.lean ====
section
/-! DEFINITION. The build parameters of 00_scope.md R6 as plain data, and the free values the spec leaves open. -/

namespace Sys2Proof

/-- The two directions (30_encoding.md R93): 0 is ENC, 1 is DEC. -/
inductive Dir where
  | enc
  | dec
  deriving DecidableEq, Repr

/-- Which block cipher stands behind the backend port (00_scope.md R8): the uninterpreted one, or the spec's own test
instance TOY8 (95_test_vectors.md section 1.1). Log entry 2. -/
inductive Backend where
  | external
  | toy8
  deriving DecidableEq, Repr

/-- BACKEND_MAY_FAIL and its oracle (60_exceptions.md R236): `never` is BACKEND_MAY_FAIL = false; the other two are
true, with every draw free, or with the failing calls named by their index in the run. Log entry 3. -/
inductive FailureOracle where
  | never
  | drawn
  | listed (calls : List Nat)
  deriving DecidableEq, Repr

/-- Which keys the backend's `expand_key` rejects with Error, for each direction: a property of the backend (41_alloc_init.md
R153, 93 M12). `unknown` is the uninterpreted one. Log entry 26. -/
inductive KeyPolicy where
  | acceptsAll
  | unknown
  | rejects (keys : List (Dir × Bytes))
  deriving DecidableEq, Repr

/-- A range of bus addresses: `size` bytes from `base` on. -/
structure Region where
  base : Nat
  size : Nat
  deriving DecidableEq, Repr

/-- The parameters of 00_scope.md R6. They are carried in State, where no step changes them, so that a statement over
all states is a statement over all of their values. Log entry 1. -/
structure Params where
  /-- B -/
  blockBytes : Nat
  /-- K -/
  keyBytes : Nat
  /-- NUM_SLOTS -/
  numSlots : Nat
  /-- KS_BITS -/
  ksBits : Nat
  /-- BASE -/
  base : Nat
  /-- whether the platform also maps the register window into system memory (20_memory.md R61). Log entry 12. -/
  windowMapped : Bool
  /-- the addresses that `bus_ok` admits, as regions (20_memory.md R61). -/
  admitted : List Region
  backend : Backend
  failures : FailureOracle
  /-- the keys `expand_key` rejects where BACKEND_MAY_FAIL is true (41_alloc_init.md R153). -/
  keyPolicy : KeyPolicy
  deriving DecidableEq, Repr

/-- The constraints of 00_scope.md R6; TOY8 has B = K = 8 and KS_BITS = 64 (95_test_vectors.md section 1.1); the
256-byte window of 10_state.md R20 lies in the 32-bit address space. -/
def Params.wf (p : Params) : Bool :=
  decide (1 ≤ p.blockBytes ∧ p.blockBytes ≤ 128) &&
  decide (1 ≤ p.keyBytes ∧ p.keyBytes ≤ 255) &&
  decide (1 ≤ p.numSlots ∧ p.numSlots ≤ 16) &&
  decide (1 ≤ p.ksBits) &&
  decide (p.base + 256 ≤ 2 ^ 32) &&
  (match p.backend with
   | .external => true
   | .toy8 => decide (p.blockBytes = 8 ∧ p.keyBytes = 8 ∧ p.ksBits = 64))

/-- The parameters of `State.reset`: DESIGN CHOICE, log entry 1. B, K, NUM_SLOTS and `bus_ok` are those of the shared
start state of 95_test_vectors.md section 1.2; the backend, its failures and the keys it rejects stay
uninterpreted. -/
def Params.atReset : Params where
  blockBytes := 8
  keyBytes := 8
  numSlots := 4
  ksBits := 64
  base := 0x40000000
  windowMapped := false
  admitted := [⟨0, 0x10000⟩]
  backend := .external
  failures := .drawn
  keyPolicy := .unknown

namespace Config

/-- FREE VALUE. `expand_key(dir, key)` of the uninterpreted backend, for sizes B, K and KS_BITS (00_scope.md R8).
Log entry 2. -/
opaque expandKey (blockBytes keyBytes ksBits : Nat) : Dir → Bytes → Nat

/-- FREE VALUE. `encrypt_block(ks, x)` of the uninterpreted backend (00_scope.md R8). Log entry 2. -/
opaque encryptBlock (blockBytes keyBytes ksBits : Nat) : Nat → Bytes → Bytes

/-- FREE VALUE. `decrypt_block(ks, y)` of the uninterpreted backend (00_scope.md R8). Log entry 2. -/
opaque decryptBlock (blockBytes keyBytes ksBits : Nat) : Nat → Bytes → Bytes

/-- FREE VALUE. Whether the n-th backend call of the run reports Error (60_exceptions.md R236). Log entry 3. -/
opaque backendError : Nat → Bool

/-- FREE VALUE. Whether the uninterpreted backend's `expand_key` rejects a key (41_alloc_init.md R153). Log entry 26. -/
opaque rejectsKey (blockBytes keyBytes ksBits : Nat) : Dir → Bytes → Bool

/-- FREE VALUE. The n-th byte the spec leaves at any value (20_memory.md R63, 70_reset_and_hazards.md R272).
Log entry 4. -/
opaque freeByte : Nat → Byte

/-- FREE VALUE. The n-th word the spec leaves at any value (10_state.md R43). Log entry 4. -/
opaque freeWord : Nat → Word

/-- FREE VALUE. The n-th choice between two values the spec leaves open (10_state.md R38, R39). Log entry 4. -/
opaque freeBool : Nat → Bool

end Config

end Sys2Proof
end

