-- ==== Sys2Proof/Syntax.lean ====
section
/-! DEFINITION. The six commands, one constructor per row of spec/opcode_table.json (30_encoding.md R92). -/

namespace Sys2Proof

/-- A legal command word, its fields pulled out (30_encoding.md R96, R98). -/
inductive Instr where
  /-- ALLOC: no operand (41_alloc_init.md R140). -/
  | alloc
  /-- INIT s, d (41_alloc_init.md R143). -/
  | init (slot : Nat) (dir : Dir)
  /-- UPDATE s (42_update.md R160). -/
  | update (slot : Nat)
  /-- FINAL s (43_final_free.md R190). -/
  | final (slot : Nat)
  /-- FREE s (43_final_free.md R195). -/
  | free (slot : Nat)
  /-- COPY t, r: destination first, as in `copy t, r` (44_copy_state.md R210). -/
  | copy (dst src : Nat)
  deriving DecidableEq, Repr

end Sys2Proof
end

