-- ==== Sys2Proof/Machine/State.lean ====
section
/-! DEFINITION. The state of the controller, of system memory and of the agents around it (10_state.md), and the state
after reset (10_state.md R49). Plain data throughout. -/

namespace Sys2Proof.Machine

/-- The lifecycle state of a slot (10_state.md R31). -/
inductive SlotState where
  | free
  | allocated
  | ready
  | finalized
  | failed
  deriving DecidableEq, Repr

/-- The result codes (60_exceptions.md R230). -/
inductive ResultCode where
  | success
  | badParameters
  | badState
  | outOfMemory
  deriving DecidableEq, Repr

/-- The cause codes (60_exceptions.md R231). -/
inductive CauseCode where
  | none
  | illegalCmd
  | slotRange
  | keyLen
  | ivLen
  | dataLen
  | addrRange
  | seq
  | keyExpand
  | blockXform
  | busError
  | noFreeSlot
  deriving DecidableEq, Repr

/-- The engine's phase (40_sequencer.md R122). -/
inductive Phase where
  | idle
  | check
  | execInit
  | execBlock
  deriving DecidableEq, Repr

/-- STATUS (10_state.md R23 to R27). -/
structure Status where
  busy : Bool
  result : ResultCode
  cause : CauseCode
  resultSlot : BitVec 4
  deriving DecidableEq, Repr

/-- EVENT (10_state.md R28). -/
structure EventReg where
  done : Bool
  overrun : Bool
  deriving DecidableEq, Repr

/-- IRQ_EN (10_state.md R29). -/
structure IrqEnable where
  doneEn : Bool
  overrunEn : Bool
  deriving DecidableEq, Repr

/-- The argument registers (10_state.md R36, R37). -/
structure Args where
  srcAddr : Word
  dstAddr : Word
  len : Word
  keyAddr : Word
  keyLen : Word
  ivAddr : Word
  ivLen : Word
  deriving DecidableEq, Repr

/-- One context slot (10_state.md R30 to R34). KS is a KS_BITS-bit number, opaque (log entry 18). -/
structure Slot where
  state : SlotState
  dir : Dir
  cv : Bytes
  ks : Nat
  deriving DecidableEq, Repr

/-- A FREE slot as reset and FREE leave it, for block size `b` (10_state.md R35, R49). -/
def Slot.erased (b : Nat) : Slot := ⟨.free, .enc, List.replicate b 0, 0⟩

/-- The command latch L (10_state.md R45): the command word, the latched argument registers, L.NBLK and L.I. -/
structure Latch where
  cmd : Word
  args : Args
  nblk : Nat
  i : Nat
  deriving DecidableEq, Repr

/-- All argument registers 0 (10_state.md R49). -/
def Args.zero : Args := ⟨0, 0, 0, 0, 0, 0, 0⟩

/-- `L <- 0` (10_state.md R49, 40_sequencer.md R125). -/
def Latch.zero : Latch := ⟨0, Args.zero, 0, 0⟩

/-- The width of a register access on the bus (20_memory.md R67). -/
inductive AccessWidth where
  | byte
  | half
  | word
  | double
  deriving DecidableEq, Repr

/-- What a host can do (30_encoding.md R101, R102). Register accesses carry a bus address, as 10_state.md R20 decodes
it, and a width. A host access to system memory is one of `n` bytes, in effect at the memory when it happens (20_memory.md
R73). `wait` is the polling pseudo-instruction. -/
inductive HostOp where
  | readReg (addr : Nat) (width : AccessWidth)
  | writeReg (addr : Nat) (width : AccessWidth) (value : Word)
  | readMem (addr n : Nat)
  | writeMem (addr : Nat) (bytes : Bytes)
  | wait
  deriving DecidableEq, Repr

/-- Whose step comes next: the engine's, a host's, or the platform's reset (00_scope.md R5, 70_reset_and_hazards.md
R270). Log entry 6. -/
inductive Input where
  | engine
  | host (op : HostOp)
  | reset
  deriving DecidableEq, Repr

/-- What the last host read returned on the bus. The model's own, log entry 8. -/
inductive Response where
  | none
  | word (w : Word)
  | bytes (bs : Bytes)
  deriving DecidableEq, Repr

/-- The whole machine. The last four fields are the model's own (log entries 3, 4, 6, 8). -/
structure State where
  /-- 00_scope.md R6; no step changes it (log entry 1). -/
  params : Params
  status : Status
  event : EventReg
  irqEn : IrqEnable
  args : Args
  /-- CV_SEL (10_state.md R42). -/
  cvSel : BitVec 4
  /-- slot[0..NUM_SLOTS-1] (10_state.md R30). -/
  slots : List Slot
  latch : Latch
  phase : Phase
  /-- KEYBUF and IVBUF (10_state.md R46). -/
  keybuf : Bytes
  ivbuf : Bytes
  /-- System memory (20_memory.md R60): the listed bytes, addresses rising; an unlisted byte reads 0 (log entry 5). -/
  mem : List Host.Cell
  /-- What happens next, oldest first (log entry 6). -/
  inputs : List Input
  /-- What the last host read returned (log entry 8). -/
  resp : Response
  /-- Backend calls made so far (60_exceptions.md R236; log entry 3). -/
  calls : Nat
  /-- Free values taken so far (log entry 4). -/
  draws : Nat
  deriving DecidableEq, Repr

/-- Why a run stops as outside the contract. -/
inductive Fault where
  /-- Raised by a host access to a byte of the in-flight buffer set while BUSY = 1: the hazard fault of
  70_reset_and_hazards.md R278. Safe: the run stops where the hardware goes on with any value. Log entry 10. -/
  | bufferRace
  /-- Raised by a host access to system memory past address 0xFFFFFFFF, which 20_memory.md R60 does not have. Safe: no
  such access exists. Log entry 9. -/
  | noSuchAddress
  deriving DecidableEq, Repr

/-- What the model gives no meaning to, by name. -/
inductive Refusal where
  /-- An instruction without a meaning: raised by no arm of this model. Safe. -/
  | notModelled (mnemonic : String)
  /-- Raised by a host register access that is not an aligned 32-bit one (20_memory.md R67: "A model refuses it").
  Safe: the run stops. Log entry 11. -/
  | registerAccess
  /-- Raised by a host register access to an address outside the 256-byte window of 10_state.md R20: another device
  answers it. Safe: the run stops. Log entry 11. -/
  | outsideWindow
  /-- Raised by a host memory access that touches the register window where the platform maps it into system memory
  (93 S7, 20_memory.md R67). Safe: the run stops. Log entry 12. -/
  | windowAsMemory
  deriving DecidableEq, Repr

/-- Right after reset (10_state.md R49, 70_reset_and_hazards.md R271), for the parameters of log entry 1, with nothing
pending and memory with nothing listed. -/
def State.reset : State where
  params := Params.atReset
  status := ⟨false, .success, .none, 0⟩
  event := ⟨false, false⟩
  irqEn := ⟨false, false⟩
  args := Args.zero
  cvSel := 0
  slots := List.replicate Params.atReset.numSlots (Slot.erased Params.atReset.blockBytes)
  latch := Latch.zero
  phase := .idle
  keybuf := List.replicate Params.atReset.keyBytes 0
  ivbuf := List.replicate Params.atReset.blockBytes 0
  mem := []
  inputs := []
  resp := .none
  calls := 0
  draws := 0

end Sys2Proof.Machine
end

