-- ==== Sys2Proof/Machine/Backend.lean ====
section
/-! DEFINITION. The backend port (00_scope.md R8) and the draw of its failures (60_exceptions.md R236). -/

namespace Sys2Proof.Machine

/-- A byte string as a number, byte 0 least significant: how TOY8's key schedule holds the key bytes (log entry 2). -/
def bytesToNat : Bytes → Nat
  | [] => 0
  | b :: rest => b.toNat + 256 * bytesToNat rest

/-- The first `n` bytes of a number, least significant first. -/
def natToBytes : Nat → Nat → Bytes
  | 0, _ => []
  | n + 1, k => BitVec.ofNat 8 k :: natToBytes n (k / 256)

/-- Exactly `n` bytes: cut, or filled with 0 (a backend returns `Bytes B`; log entry 2). -/
def fitBytes : Nat → Bytes → Bytes
  | 0, _ => []
  | n + 1, [] => 0 :: fitBytes n []
  | n + 1, b :: rest => b :: fitBytes n rest

/-- Byte j of the result is byte (j+1) mod n of `x`. -/
def rotateLeft : Bytes → Bytes
  | [] => []
  | b :: rest => rest ++ [b]

/-- Byte j of the result is byte (j-1) mod n of `x`. -/
def rotateRight (x : Bytes) : Bytes := (rotateLeft x.reverse).reverse

/-- TOY8's `encrypt_block` (95_test_vectors.md section 1.1): byte j is `x[(j+1) mod 8] XOR ks[j]`. -/
def toyEncrypt (ks : Nat) (x : Bytes) : Bytes := List.zipWith (· ^^^ ·) (rotateLeft x) (natToBytes 8 ks)

/-- TOY8's `decrypt_block`: byte j is `(y XOR ks)[(j-1) mod 8]`. -/
def toyDecrypt (ks : Nat) (y : Bytes) : Bytes := rotateRight (List.zipWith (· ^^^ ·) y (natToBytes 8 ks))

/-- The result of `expand_key(d, key)`, a KS_BITS-bit value (00_scope.md R8). -/
def backendExpand (p : Params) (d : Dir) (key : Bytes) : Nat :=
  (match p.backend with
   | .external => Config.expandKey p.blockBytes p.keyBytes p.ksBits d key
   | .toy8 => bytesToNat key) % 2 ^ p.ksBits

/-- The result of `encrypt_block(ks, x)`, B bytes (00_scope.md R8). -/
def backendEncrypt (p : Params) (ks : Nat) (x : Bytes) : Bytes :=
  fitBytes p.blockBytes
    (match p.backend with
     | .external => Config.encryptBlock p.blockBytes p.keyBytes p.ksBits ks x
     | .toy8 => toyEncrypt ks x)

/-- The result of `decrypt_block(ks, y)`, B bytes (00_scope.md R8). -/
def backendDecrypt (p : Params) (ks : Nat) (y : Bytes) : Bytes :=
  fitBytes p.blockBytes
    (match p.backend with
     | .external => Config.decryptBlock p.blockBytes p.keyBytes p.ksBits ks y
     | .toy8 => toyDecrypt ks y)

/-- The oracle on a call's index (60_exceptions.md R236). -/
def oracleFails (o : FailureOracle) (call : Nat) : Bool :=
  match o with
  | .never => false
  | .drawn => Config.backendError call
  | .listed calls => calls.contains call

/-- Whether the next backend call returns Error. -/
def State.nextCallFails (s : State) : Bool := oracleFails s.params.failures s.calls

/-- Whether the backend's `expand_key` returns Error for this direction and key whatever the draw: never where
BACKEND_MAY_FAIL is false (41_alloc_init.md R153, 60_exceptions.md R236; log entry 26). -/
def keyRejected (p : Params) (d : Dir) (key : Bytes) : Bool :=
  decide (p.failures ≠ .never) &&
    match p.keyPolicy with
    | .acceptsAll => false
    | .unknown => Config.rejectsKey p.blockBytes p.keyBytes p.ksBits d key
    | .rejects keys => keys.contains (d, key)

/-- Whether `expand_key(d, key)`, called next, returns Error: the key is one the backend rejects, or the draw fails the
call (41_alloc_init.md R150, R153). -/
def State.expandFails (s : State) (d : Dir) (key : Bytes) : Bool := keyRejected s.params d key || s.nextCallFails

/-- A backend call was made. -/
def State.countCall (s : State) : State := { s with calls := s.calls + 1 }

end Sys2Proof.Machine
end

