-- ==== Sys2Proof/Machine/Flags.lean ====
section
/-! DEFINITION. The codes of STATUS and of the slot states, the status words, the event bits and the interrupt line
(10_state.md R23 to R31, 60_exceptions.md R230 to R244). -/

namespace Sys2Proof.Machine

/-- R230. -/
def ResultCode.code : ResultCode → Nat
  | .success => 0
  | .badParameters => 1
  | .badState => 2
  | .outOfMemory => 3

/-- R231. -/
def CauseCode.code : CauseCode → Nat
  | .none => 0x00
  | .illegalCmd => 0x01
  | .slotRange => 0x02
  | .keyLen => 0x03
  | .ivLen => 0x04
  | .dataLen => 0x05
  | .addrRange => 0x06
  | .seq => 0x10
  | .keyExpand => 0x11
  | .blockXform => 0x12
  | .busError => 0x13
  | .noFreeSlot => 0x20

/-- 10_state.md R31. -/
def SlotState.code : SlotState → Nat
  | .free => 0
  | .allocated => 1
  | .ready => 2
  | .finalized => 3
  | .failed => 4

/-- The legal (RESULT, CAUSE) pairs (60_exceptions.md R232). -/
def legalPair (r : ResultCode) (c : CauseCode) : Bool :=
  match r with
  | .success => decide (c = .none)
  | .badParameters =>
    decide (c = .illegalCmd ∨ c = .slotRange ∨ c = .keyLen ∨ c = .ivLen ∨ c = .dataLen ∨ c = .addrRange)
  | .badState => decide (c = .seq ∨ c = .keyExpand ∨ c = .blockXform ∨ c = .busError)
  | .outOfMemory => decide (c = .noFreeSlot)

/-- STATUS as a word: BUSY [0], RESULT [7:4], CAUSE [15:8], RESULT_SLOT [19:16], the rest 0 (10_state.md R23). -/
def Status.word (t : Status) : Word :=
  BitVec.ofNat 32 (t.busy.toNat + t.result.code * 2 ^ 4 + t.cause.code * 2 ^ 8 + t.resultSlot.toNat * 2 ^ 16)

/-- EVENT as a word: DONE [0], OVERRUN [1], the rest 0 (10_state.md R28). -/
def EventReg.word (e : EventReg) : Word := BitVec.ofNat 32 (e.done.toNat + e.overrun.toNat * 2)

/-- IRQ_EN as a word: DONE_EN [0], OVERRUN_EN [1], the rest 0 (10_state.md R29). -/
def IrqEnable.word (q : IrqEnable) : Word := BitVec.ofNat 32 (q.doneEn.toNat + q.overrunEn.toNat * 2)

/-- A host write to EVENT: 1 clears the bit, 0 leaves it (10_state.md R28). -/
def EventReg.clear (e : EventReg) (v : Word) : EventReg :=
  ⟨e.done && !v.getLsbD 0, e.overrun && !v.getLsbD 1⟩

/-- A host write to IRQ_EN: bits [1:0] only (10_state.md R29). -/
def irqEnableOfWord (v : Word) : IrqEnable := ⟨v.getLsbD 0, v.getLsbD 1⟩

/-- The interrupt output, a function of EVENT and IRQ_EN (60_exceptions.md R241). -/
def State.irq (s : State) : Bool :=
  (s.event.done && s.irqEn.doneEn) || (s.event.overrun && s.irqEn.overrunEn)

end Sys2Proof.Machine
end

