-- ==== Sys2Proof/Machine/Memory.lean ====
section
/-! DEFINITION. System memory: bytes by address, in one canonical form (20_memory.md R60 to R64). -/

namespace Sys2Proof.Machine

/-- What a byte that nothing has written reads as: DESIGN CHOICE, log entry 5 (unsafe). -/
def unwrittenByte : Byte := 0

/-- The canonical form: addresses strictly rising, all above `lo`, and no entry equal to what an unlisted byte reads. -/
def Memory.wfAbove : Nat → List Host.Cell → Bool
  | _, [] => true
  | lo, (a, v) :: rest => decide (lo ≤ a) && decide (v ≠ unwrittenByte) && Memory.wfAbove (a + 1) rest

/-- The canonical form of a whole memory. -/
def Memory.wf (m : List Host.Cell) : Bool := Memory.wfAbove 0 m

/-- Every listed address lies below `hi`. -/
def Memory.below (hi : Nat) (m : List Host.Cell) : Bool := m.all fun c => decide (c.1 < hi)

/-- The byte at an address. -/
def readByte : List Host.Cell → Nat → Byte
  | [], _ => unwrittenByte
  | (b, v) :: rest, a => if a = b then v else readByte rest a

/-- `v` listed at `a` in front of `rest`, or left unlisted where it is what an unlisted byte reads. -/
def putByte (a : Nat) (v : Byte) (rest : List Host.Cell) : List Host.Cell :=
  if v = unwrittenByte then rest else (a, v) :: rest

/-- Write one byte, keeping the canonical form. -/
def writeByte : List Host.Cell → Nat → Byte → List Host.Cell
  | [], a, v => putByte a v []
  | (b, w) :: rest, a, v =>
    if a < b then putByte a v ((b, w) :: rest)
    else if a = b then putByte a v rest
    else (b, w) :: writeByte rest a v

/-- `n` bytes from `a` on: byte j is the byte at a + j (20_memory.md R64). -/
def readBytes (m : List Host.Cell) (a : Nat) : Nat → Bytes
  | 0 => []
  | n + 1 => readByte m a :: readBytes m (a + 1) n

/-- Write a byte string from `a` on: byte j goes to a + j (20_memory.md R64). -/
def writeBytes (m : List Host.Cell) (a : Nat) : Bytes → List Host.Cell
  | [] => m
  | v :: rest => writeBytes (writeByte m a v) (a + 1) rest

/-- An address lies in a region. -/
def Region.covers (r : Region) (a : Nat) : Bool := decide (r.base ≤ a) && decide (a < r.base + r.size)

/-- The 256-byte register window at BASE (10_state.md R20). -/
def windowRegion (p : Params) : Region := ⟨p.base, 256⟩

/-- `bus_ok(a)` (20_memory.md R61): a byte of the 2^32-byte space that the platform admits; never a byte of the register
window where the platform maps it (93 S7, log entry 12). -/
def busOk (p : Params) (a : Nat) : Bool :=
  decide (a < 2 ^ 32) && p.admitted.any (fun r => Region.covers r a) &&
    !(p.windowMapped && Region.covers (windowRegion p) a)

/-- Every byte a..a+n-1 is admitted. -/
def rangeOk (p : Params) (a : Nat) : Nat → Bool
  | 0 => true
  | n + 1 => busOk p a && rangeOk p (a + 1) n

/-- A failed write: each admitted byte of a..a+n-1 holds any value, no other byte changes (20_memory.md R63). `d` is the
index of the first free value. -/
def scrambleBytes (p : Params) (m : List Host.Cell) (a d : Nat) : Nat → List Host.Cell
  | 0 => m
  | n + 1 =>
    scrambleBytes p (if busOk p a then writeByte m a (Config.freeByte d) else m) (a + 1) (d + 1) n

/-- `MemRead(a, n)` (20_memory.md R62): nothing on a bus error. -/
def memRead (s : State) (a n : Nat) : Option Bytes :=
  if rangeOk s.params a n then some (readBytes s.mem a n) else none

/-- The effect of a `MemWrite(a, n, v)` without a bus error (20_memory.md R63). -/
def State.store (s : State) (a : Nat) (v : Bytes) : State := { s with mem := writeBytes s.mem a v }

/-- The effect of a `MemWrite(a, n, v)` with a bus error (20_memory.md R63), also of a write that a reset cuts short
(70_reset_and_hazards.md R272). -/
def State.scramble (s : State) (a n : Nat) : State :=
  { s with mem := scrambleBytes s.params s.mem a s.draws n, draws := s.draws + n }

end Sys2Proof.Machine
end

