-- ==== Sys2Proof/WellFormed.lean ====
section
/-! DEFINITION. Which instruction terms a command word can hold. -/

namespace Sys2Proof

/-- A slot operand is a 4-bit field, 0 to 15 (30_encoding.md R94, R95). An index of NUM_SLOTS or more is well formed: it
is a parameter error of the check step, not a decode error. -/
def slotFieldOk (n : Nat) : Bool := decide (n < 16)

/-- Every operand fits its field (30_encoding.md R91). -/
def Instr.wf : Instr → Bool
  | .alloc => true
  | .init s _ => slotFieldOk s
  | .update s => slotFieldOk s
  | .final s => slotFieldOk s
  | .free s => slotFieldOk s
  | .copy t r => slotFieldOk t && slotFieldOk r

end Sys2Proof
end

