-- ==== Sys2Proof/Decode.lean ====
section
/-! DEFINITION. The decoder and the encoder of command words (30_encoding.md R90 to R100). -/

namespace Sys2Proof

/-- Why a word is ILLEGAL: the three cases of 30_encoding.md R97, (a), (b) and (c). The names are the model's own: the
machine reports ILLEGAL_CMD for each. -/
inductive DecodeError where
  /-- (a) OP is 0x0 or 0x7 to 0xF. -/
  | reservedOpcode
  /-- (b) RSVD_HI or RSVD_LO is not 0. -/
  | reservedBits
  /-- (c) a field the command does not use is not 0. -/
  | unusedField
  deriving DecidableEq, Repr

/-- Bits [hi:lo] of a word, an unsigned integer (30_encoding.md R96). -/
def bits (hi lo : Nat) (w : Word) : Nat := w.toNat / 2 ^ lo % 2 ^ (hi + 1 - lo)

/-- OP, bits [3:0] (R91). -/
def opField (w : Word) : Nat := bits 3 0 w
/-- DIR, bit [4] (R91). -/
def dirField (w : Word) : Nat := bits 4 4 w
/-- RSVD_LO, bits [7:5] (R91). -/
def rsvdLoField (w : Word) : Nat := bits 7 5 w
/-- SLOT, bits [11:8] (R91, R94). -/
def slotField (w : Word) : Nat := bits 11 8 w
/-- SRC_SLOT, bits [15:12] (R91, R95). -/
def srcSlotField (w : Word) : Nat := bits 15 12 w
/-- RSVD_HI, bits [31:16] (R91). -/
def rsvdHiField (w : Word) : Nat := bits 31 16 w

/-- 0 is ENC, 1 is DEC (R93). -/
def dirOfBit (n : Nat) : Dir := if n = 0 then .enc else .dec

/-- ENC is 0, DEC is 1 (R93). -/
def Dir.bit : Dir → Nat
  | .enc => 0
  | .dec => 1

/-- `i` where every field the command leaves unused is 0, else the unused-field rejection (R97 (c)). -/
def unusedZero (unused : List Nat) (i : Instr) : Except DecodeError Instr :=
  if unused.all (· == 0) then .ok i else .error .unusedField

/-- Decode a command word: total, every word is exactly one of the six commands or ILLEGAL, by name (R98). -/
def decode (w : Word) : Except DecodeError Instr :=
  if rsvdHiField w ≠ 0 ∨ rsvdLoField w ≠ 0 then
    .error .reservedBits
  else
    match opField w with
    | 1 => unusedZero [dirField w, slotField w, srcSlotField w] .alloc
    | 2 => unusedZero [srcSlotField w] (.init (slotField w) (dirOfBit (dirField w)))
    | 3 => unusedZero [dirField w, srcSlotField w] (.update (slotField w))
    | 4 => unusedZero [dirField w, srcSlotField w] (.final (slotField w))
    | 5 => unusedZero [dirField w, srcSlotField w] (.free (slotField w))
    | 6 => unusedZero [dirField w] (.copy (slotField w) (srcSlotField w))
    | _ => .error .reservedOpcode

/-- The decoder on a word numbered as the opcode table numbers it. A command is always one 32-bit word (R90). -/
def decodeTableWord (nbits w : Nat) : Option Instr :=
  if nbits ≤ 32 ∧ w < 2 ^ 32 then (decode (BitVec.ofNat 32 w)).toOption else none

/-- A command word from its fields OP, DIR, SLOT and SRC_SLOT (R91). -/
def commandWord (op dir slot src : Nat) : Word :=
  BitVec.ofNat 32 (op + dir * 2 ^ 4 + slot * 2 ^ 8 + src * 2 ^ 12)

/-- The word of a well-formed instruction (R99, R100). -/
def encode : Instr → Word
  | .alloc => commandWord 1 0 0 0
  | .init s d => commandWord 2 d.bit s 0
  | .update s => commandWord 3 0 s 0
  | .final s => commandWord 4 0 s 0
  | .free s => commandWord 5 0 s 0
  | .copy t r => commandWord 6 0 t r

/-- The opcode table's `match` value of an instruction's row (R99). -/
def rowMatch : Instr → Word
  | .alloc => 0x00000001#32
  | .init _ _ => 0x00000002#32
  | .update _ => 0x00000003#32
  | .final _ => 0x00000004#32
  | .free _ => 0x00000005#32
  | .copy _ _ => 0x00000006#32

/-- The opcode table's `mask` value of an instruction's row (R99). -/
def rowMask : Instr → Word
  | .alloc => 0xFFFFFFFF#32
  | .init _ _ => 0xFFFFF0EF#32
  | .update _ => 0xFFFFF0FF#32
  | .final _ => 0xFFFFF0FF#32
  | .free _ => 0xFFFFF0FF#32
  | .copy _ _ => 0xFFFF00FF#32

/-- The textual syntax of a command (R100). -/
def Instr.asm : Instr → String
  | .alloc => "alloc"
  | .init s .enc => "init " ++ toString s ++ ", enc"
  | .init s .dec => "init " ++ toString s ++ ", dec"
  | .update s => "update " ++ toString s
  | .final s => "final " ++ toString s
  | .free s => "free " ++ toString s
  | .copy t r => "copy " ++ toString t ++ ", " ++ toString r

end Sys2Proof
end

