-- ==== Sys2Proof/Machine/Operands.lean ====
section
/-! DEFINITION. Operand forms: slots by index, the latched arguments, block addresses, the block XOR path. -/

namespace Sys2Proof.Machine

/-- `0^n` (00_scope.md section 6). -/
def zeros (n : Nat) : Bytes := List.replicate n 0

/-- `x XOR y`, byte by byte (42_update.md R172). -/
def xorBytes (x y : Bytes) : Bytes := List.zipWith (· ^^^ ·) x y

/-- B -/
def State.blockBytes (s : State) : Nat := s.params.blockBytes

/-- K -/
def State.keyBytes (s : State) : Nat := s.params.keyBytes

/-- `slot[n]`; an erased slot where n ≥ NUM_SLOTS, which the slot-range check keeps every command from using. -/
def State.slot (s : State) (n : Nat) : Slot := s.slots.getD n (Slot.erased s.params.blockBytes)

/-- `slot[n] <- v`; nothing where n ≥ NUM_SLOTS. -/
def State.setSlot (s : State) (n : Nat) (v : Slot) : State := { s with slots := s.slots.set n v }

/-- L.SRC_ADDR and its fellows as unsigned integers (30_encoding.md R96). -/
def State.lSrcAddr (s : State) : Nat := s.latch.args.srcAddr.toNat
def State.lDstAddr (s : State) : Nat := s.latch.args.dstAddr.toNat
def State.lLen (s : State) : Nat := s.latch.args.len.toNat
def State.lKeyAddr (s : State) : Nat := s.latch.args.keyAddr.toNat
def State.lKeyLen (s : State) : Nat := s.latch.args.keyLen.toNat
def State.lIvAddr (s : State) : Nat := s.latch.args.ivAddr.toNat
def State.lIvLen (s : State) : Nat := s.latch.args.ivLen.toNat

/-- `a_in` of block L.I (42_update.md R165). -/
def State.blockIn (s : State) : Nat := s.lSrcAddr + s.latch.i * s.params.blockBytes

/-- `a_out` of block L.I (42_update.md R165). -/
def State.blockOut (s : State) : Nat := s.lDstAddr + s.latch.i * s.params.blockBytes

/-- The least index of a FREE slot (41_alloc_init.md R141). -/
def State.firstFree (s : State) : Option Nat := s.slots.findIdx? (fun t => decide (t.state = .free))

/-- The command in flight, from the latch; nothing where the latched word is illegal. -/
def State.inFlight (s : State) : Option Instr := (decode s.latch.cmd).toOption

/-- The slot the command in flight names as its own: the one of its word, COPY's destination, and for ALLOC the slot it
allocates (10_state.md R30, R43; log entry 13). COPY's source is only read, and reads exact. -/
def State.namesSlot (s : State) (n : Nat) : Bool :=
  match s.inFlight with
  | some .alloc => decide (s.firstFree = some n)
  | some (.init m _) => decide (m = n)
  | some (.update m) => decide (m = n)
  | some (.final m) => decide (m = n)
  | some (.free m) => decide (m = n)
  | some (.copy t _) => decide (t = n)
  | none => false

/-- The in-flight buffer set (20_memory.md R76). -/
def State.bufferSet (s : State) : List Region :=
  match s.inFlight with
  | some (.init _ _) => [⟨s.lKeyAddr, s.params.keyBytes⟩, ⟨s.lIvAddr, s.params.blockBytes⟩]
  | some (.update _) => if s.lLen = 0 then [] else [⟨s.lSrcAddr, s.lLen⟩, ⟨s.lDstAddr, s.lLen⟩]
  | _ => []

/-- Some byte of `n` bytes from `a` on lies in a region. -/
def Region.meets (r : Region) (a n : Nat) : Bool :=
  decide (0 < n) && decide (0 < r.size) && decide (a < r.base + r.size) && decide (r.base < a + n)

/-- A host access to `n` bytes from `a` on is a buffer race (20_memory.md R76). -/
def State.races (s : State) (a n : Nat) : Bool :=
  s.status.busy && s.bufferSet.any (fun r => Region.meets r a n)

end Sys2Proof.Machine
end

