-- ==== Sys2Proof/Machine/Ops.lean ====
section
/-! DEFINITION. The operations every command shares: acceptance, overrun, completion, failure (40_sequencer.md R120,
R121, R125, R126) and reset (70_reset_and_hazards.md R270 to R272). Completion is the controller's counterpart of trap
entry (60_exceptions.md R240); there is no return from it (R244). -/

namespace Sys2Proof.Machine

/-- Accept: a CMD write while BUSY = 0 (40_sequencer.md R120). -/
def State.accept (s : State) (w : Word) : State :=
  { s with
    latch := ⟨w, s.args, 0, 0⟩
    status := { s.status with busy := true }
    phase := .check }

/-- Overrun: a CMD write while BUSY = 1 is dropped (40_sequencer.md R121). -/
def State.noteOverrun (s : State) : State := { s with event := { s.event with overrun := true } }

/-- A host write of `w` to CMD (40_sequencer.md R120, R121). -/
def State.writeCmd (s : State) (w : Word) : State :=
  if s.status.busy then s.noteOverrun else s.accept w

/-- `complete(res, cause)` (40_sequencer.md R125). -/
def State.complete (s : State) (res : ResultCode) (cause : CauseCode) : State :=
  { s with
    status := { s.status with result := res, cause := cause, busy := false }
    keybuf := zeros s.params.keyBytes
    ivbuf := zeros s.params.blockBytes
    latch := Latch.zero
    phase := .idle
    event := { s.event with done := true } }

/-- A slot that a failure has struck: FAILED, KS erased, CV and DIR kept (40_sequencer.md R126). -/
def Slot.failedKeep (t : Slot) : Slot := { t with state := .failed, ks := 0 }

/-- `fail(cause)` of a command on slot `n` (40_sequencer.md R126). -/
def State.fail (s : State) (n : Nat) (cause : CauseCode) : State :=
  (s.setSlot n (s.slot n).failedKeep).complete .badState cause

/-- `phase <- ph` (40_sequencer.md R122). -/
def State.enter (s : State) (ph : Phase) : State := { s with phase := ph }

/-- `L.NBLK <- L.LEN / B` (40_sequencer.md R122). -/
def State.setBlockCount (s : State) : State :=
  { s with latch := { s.latch with nblk := s.lLen / s.params.blockBytes } }

/-- `L.I <- L.I + 1` (40_sequencer.md R122). -/
def State.countBlock (s : State) : State := { s with latch := { s.latch with i := s.latch.i + 1 } }

/-- The block a reset cuts short: its destination bytes hold any value where its write can be under way, which takes a read
without a bus error and a backend call without Error (70_reset_and_hazards.md R272, 42_update.md R161, R162, R168); the
call counts as made (log entry 15). -/
def State.abandonWrite (s : State) : State :=
  if s.phase = .execBlock ∧ rangeOk s.params s.blockIn s.params.blockBytes = true then
    if s.nextCallFails then s.countCall else s.countCall.scramble s.blockOut s.params.blockBytes
  else s

/-- Every piece of controller state at its reset value; parameters, memory and the agents around stay (10_state.md R49,
70_reset_and_hazards.md R271). -/
def State.clearController (s : State) : State :=
  { State.reset with
    params := s.params
    slots := List.replicate s.params.numSlots (Slot.erased s.params.blockBytes)
    keybuf := zeros s.params.keyBytes
    ivbuf := zeros s.params.blockBytes
    mem := s.mem
    inputs := s.inputs
    resp := s.resp
    calls := s.calls
    draws := s.draws }

/-- The platform's reset, one atomic step (70_reset_and_hazards.md R270 to R272). -/
def State.platformReset (s : State) : State := s.abandonWrite.clearController

end Sys2Proof.Machine
end

