-- ==== Sys2Proof/Machine/Checks.lean ====
section
/-! DEFINITION. The state-sequence validator: the checks of 40_sequencer.md R123 in their order, and the table of R127. -/

namespace Sys2Proof.Machine

/-- One row of the table of R123: whether the check fails, and what the command then completes with. -/
structure CheckRow where
  fails : Bool
  result : ResultCode
  cause : CauseCode
  deriving DecidableEq, Repr

/-- The first check that fails decides (R123). -/
def firstFailure : List CheckRow → Option CheckRow
  | [] => none
  | r :: rest => if r.fails then some r else firstFailure rest

/-- The CHECK step: complete with the first failing row, else the command's own effect (R122, R124). -/
def runChecks (rows : List CheckRow) (effect : State → State) (s : State) : State :=
  match firstFailure rows with
  | some r => s.complete r.result r.cause
  | none => effect s

/-- Check 2 on one slot field (R123). -/
def slotRangeRow (s : State) (n : Nat) : CheckRow :=
  ⟨decide (s.params.numSlots ≤ n), .badParameters, .slotRange⟩

/-- Check 3 (R123): SEQ unless the slot's state is permitted. -/
def seqRow (s : State) (n : Nat) (permits : SlotState → Bool) : CheckRow :=
  ⟨!permits (s.slot n).state, .badState, .seq⟩

/-- R127, row INIT. -/
def initPermits : SlotState → Bool
  | .allocated => true
  | _ => false

/-- R127, row UPDATE. -/
def updatePermits : SlotState → Bool
  | .ready => true
  | _ => false

/-- R127, row FINAL. -/
def finalPermits : SlotState → Bool
  | .ready => true
  | _ => false

/-- R127, row FREE. -/
def freePermits : SlotState → Bool
  | .free => false
  | _ => true

/-- R127, row COPY, source slot. -/
def copySourcePermits : SlotState → Bool
  | .ready => true
  | _ => false

/-- R127, row COPY, destination slot. -/
def copyDestPermits : SlotState → Bool
  | .allocated => true
  | .ready => true
  | .finalized => true
  | _ => false

/-- Check 3a (R123). -/
def allocChecks (s : State) : List CheckRow :=
  [⟨decide (s.firstFree = none), .outOfMemory, .noFreeSlot⟩]

/-- Checks 2, 3, 4, 5, 7 for INIT (R123; 41_alloc_init.md R144 to R147). -/
def initChecks (n : Nat) (s : State) : List CheckRow :=
  [slotRangeRow s n,
   seqRow s n initPermits,
   ⟨decide (s.lKeyLen ≠ s.params.keyBytes), .badParameters, .keyLen⟩,
   ⟨decide (s.lIvLen ≠ s.params.blockBytes), .badParameters, .ivLen⟩,
   ⟨decide (2 ^ 32 < s.lKeyAddr + s.params.keyBytes ∨ 2 ^ 32 < s.lIvAddr + s.params.blockBytes),
     .badParameters, .addrRange⟩]

/-- Checks 2, 3, 6, 7 for UPDATE (R123; 42_update.md R163, R164). -/
def updateChecks (n : Nat) (s : State) : List CheckRow :=
  [slotRangeRow s n,
   seqRow s n updatePermits,
   ⟨decide (s.lLen % s.params.blockBytes ≠ 0), .badParameters, .dataLen⟩,
   ⟨decide (2 ^ 32 < s.lSrcAddr + s.lLen ∨ 2 ^ 32 < s.lDstAddr + s.lLen), .badParameters, .addrRange⟩]

/-- Checks 2, 3 for FINAL (R123). -/
def finalChecks (n : Nat) (s : State) : List CheckRow :=
  [slotRangeRow s n, seqRow s n finalPermits]

/-- Checks 2, 3 for FREE (R123). -/
def freeChecks (n : Nat) (s : State) : List CheckRow :=
  [slotRangeRow s n, seqRow s n freePermits]

/-- Checks 2, 3 for COPY t, r: either index out of range; the source's state first (R123, R127; 44_copy_state.md R211). -/
def copyChecks (t r : Nat) (s : State) : List CheckRow :=
  [slotRangeRow s t, slotRangeRow s r, seqRow s r copySourcePermits, seqRow s t copyDestPermits]

end Sys2Proof.Machine
end

