-- ==== Sys2Proof/Machine/AllocInit.lean ====
section
/-! DEFINITION. ALLOC and INIT (41_alloc_init.md). -/

namespace Sys2Proof.Machine

/-- A slot just allocated: zeroed (R140). -/
def Slot.allocated (b : Nat) : Slot := ⟨.allocated, .enc, zeros b, 0⟩

/-- `STATUS.RESULT_SLOT <- n` (10_state.md R27). -/
def State.setResultSlot (s : State) (n : Nat) : State :=
  { s with status := { s.status with resultSlot := BitVec.ofNat 4 n } }

/-- ALLOC's effect on the least FREE slot (R140, R141). -/
def allocEffect (s : State) : State :=
  match s.firstFree with
  | some n =>
    ((s.setSlot n (Slot.allocated s.params.blockBytes)).setResultSlot n).complete .success .none
  | none => s.complete .outOfMemory .noFreeSlot

/-- ALLOC (R140). -/
def execAlloc (s : State) : Host.Outcome State Fault Refusal :=
  .next (runChecks (allocChecks s) allocEffect s)

/-- `IVBUF <- iv` and `KEYBUF <- key` (10_state.md R46). -/
def State.loadBuffers (s : State) (iv key : Bytes) : State := { s with ivbuf := iv, keybuf := key }

/-- `slot[n].CV <- IVBUF ; slot[n].DIR <- d` (R143). -/
def loadIv (n : Nat) (d : Dir) (s : State) : State :=
  s.setSlot n { s.slot n with cv := s.ivbuf, dir := d }

/-- `r := expand_key(d, KEYBUF)` and what follows it (R143, R149, R150, R153). -/
def expandAndCommit (n : Nat) (d : Dir) (s : State) : State :=
  if s.expandFails d s.keybuf then s.countCall.fail n .keyExpand
  else
    (s.countCall.setSlot n
      { s.slot n with ks := backendExpand s.params d s.keybuf, state := .ready }).complete .success .none

/-- The EXEC_INIT step: IV read, key read, CV and DIR, expansion, commit (R143, R148). -/
def initExec (n : Nat) (d : Dir) (s : State) : State :=
  match memRead s s.lIvAddr s.params.blockBytes with
  | none => s.fail n .busError
  | some iv =>
    match memRead s s.lKeyAddr s.params.keyBytes with
    | none => s.fail n .busError
    | some key => expandAndCommit n d (loadIv n d (s.loadBuffers iv key))

/-- INIT s, d: its CHECK step, or its EXEC_INIT step where the checks have passed (R143, 40_sequencer.md R122). -/
def execInit (n : Nat) (d : Dir) (s : State) : Host.Outcome State Fault Refusal :=
  match s.phase with
  | .execInit => .next (initExec n d s)
  | _ => .next (runChecks (initChecks n s) (fun t => t.enter .execInit) s)

end Sys2Proof.Machine
end

