-- ==== Sys2Proof/Machine/CopyState.lean ====
section
/-! DEFINITION. COPY (44_copy_state.md). -/

namespace Sys2Proof.Machine

/-- COPY's effect: the destination takes the source's DIR, CV and KS and is READY; nothing where they are one slot
(R210, R212). -/
def copyEffect (t r : Nat) (s : State) : State :=
  if t = r then s.complete .success .none
  else (s.setSlot t { s.slot r with state := .ready }).complete .success .none

/-- COPY t, r (R210). -/
def execCopy (t r : Nat) (s : State) : Host.Outcome State Fault Refusal :=
  .next (runChecks (copyChecks t r s) (copyEffect t r) s)

end Sys2Proof.Machine
end

