-- ==== Sys2Proof/Machine/FinalFree.lean ====
section
/-! DEFINITION. FINAL and FREE (43_final_free.md). -/

namespace Sys2Proof.Machine

/-- FINALIZED, KS erased, CV and DIR kept (R190, R191, R193). -/
def Slot.finalizedKeep (t : Slot) : Slot := { t with state := .finalized, ks := 0 }

/-- FINAL's effect (R190). -/
def finalEffect (n : Nat) (s : State) : State :=
  (s.setSlot n (s.slot n).finalizedKeep).complete .success .none

/-- FINAL s (R190). -/
def execFinal (n : Nat) (s : State) : Host.Outcome State Fault Refusal :=
  .next (runChecks (finalChecks n s) (finalEffect n) s)

/-- FREE's effect: KS, CV and DIR zeroed, FREE (R195, R196). -/
def freeEffect (n : Nat) (s : State) : State :=
  (s.setSlot n (Slot.erased s.params.blockBytes)).complete .success .none

/-- FREE s (R195). -/
def execFree (n : Nat) (s : State) : Host.Outcome State Fault Refusal :=
  .next (runChecks (freeChecks n s) (freeEffect n) s)

end Sys2Proof.Machine
end

