-- ==== Sys2Proof/Machine/Update.lean ====
section
/-! DEFINITION. UPDATE and the block XOR path (42_update.md). -/

namespace Sys2Proof.Machine

/-- `L.I <- i + 1 ; if L.I = L.NBLK: complete(SUCCESS, NONE)` (R160). -/
def nextBlock (s : State) : State :=
  if s.countBlock.latch.i = s.countBlock.latch.nblk then s.countBlock.complete .success .none
  else s.countBlock

/-- `slot[n].CV <- cv` (R161, R162). -/
def setCv (n : Nat) (cv : Bytes) (s : State) : State := s.setSlot n { s.slot n with cv := cv }

/-- The write of the output block and the CV update, in one step (R167); a bus error fails the command (R168). -/
def commitBlock (n : Nat) (out cv : Bytes) (s : State) : State :=
  if rangeOk s.params s.blockOut s.params.blockBytes then
    nextBlock (setCv n cv (s.store s.blockOut out))
  else
    (s.scramble s.blockOut s.params.blockBytes).fail n .busError

/-- Encrypt block L.I: `c = E(p XOR CV)`, `CV <- c` (R161). -/
def encryptStep (n : Nat) (s : State) : State :=
  match memRead s s.blockIn s.params.blockBytes with
  | none => s.fail n .busError
  | some p =>
    if s.nextCallFails then s.countCall.fail n .blockXform
    else
      commitBlock n (backendEncrypt s.params (s.slot n).ks (xorBytes p (s.slot n).cv))
        (backendEncrypt s.params (s.slot n).ks (xorBytes p (s.slot n).cv)) s.countCall

/-- Decrypt block L.I: `p = D(c) XOR CV`, `CV <- c`, the input ciphertext (R162). -/
def decryptStep (n : Nat) (s : State) : State :=
  match memRead s s.blockIn s.params.blockBytes with
  | none => s.fail n .busError
  | some c =>
    if s.nextCallFails then s.countCall.fail n .blockXform
    else commitBlock n (xorBytes (backendDecrypt s.params (s.slot n).ks c) (s.slot n).cv) c s.countCall

/-- The EXEC_BLOCK step on block L.I (R160). -/
def blockStep (n : Nat) (s : State) : State :=
  match (s.slot n).dir with
  | .enc => encryptStep n s
  | .dec => decryptStep n s

/-- After UPDATE's checks: the block count, and completion at once where it is 0 (R160, R171). -/
def startBlocks (s : State) : State :=
  if s.setBlockCount.latch.nblk = 0 then s.setBlockCount.complete .success .none
  else s.setBlockCount.enter .execBlock

/-- UPDATE s: its CHECK step, or one EXEC_BLOCK step where the checks have passed (R160, 40_sequencer.md R122). -/
def execUpdate (n : Nat) (s : State) : Host.Outcome State Fault Refusal :=
  match s.phase with
  | .execBlock => .next (blockStep n s)
  | _ => .next (runChecks (updateChecks n s) startBlocks s)

end Sys2Proof.Machine
end

