-- ==== Sys2Proof/Machine/Dispatch.lean ====
section
/-! DEFINITION. One engine step of the command in flight, by command (40_sequencer.md R122; log entry 16). -/

namespace Sys2Proof.Machine

open Sys2Proof

/- One arm per constructor of Instr. -/
def exec (i : Instr) (s : State) : Host.Outcome State Fault Refusal :=
  match i with
  | .alloc => Sys2Proof.Machine.execAlloc s
  | .init n d => Sys2Proof.Machine.execInit n d s
  | .update n => Sys2Proof.Machine.execUpdate n s
  | .final n => Sys2Proof.Machine.execFinal n s
  | .free n => Sys2Proof.Machine.execFree n s
  | .copy t r => Sys2Proof.Machine.execCopy t r s

end Sys2Proof.Machine
end

