-- ==== Sys2Proof/Machine/Engine.lean ====
section
/-! DEFINITION. The engine: one step of the command in flight, and the command run to its completion (40_sequencer.md
R122). -/

namespace Sys2Proof.Machine

/-- Check 1: an illegal word is accepted and completes so (30_encoding.md R97, 40_sequencer.md R123). -/
def illegalCommand (s : State) : State := s.complete .badParameters .illegalCmd

/-- The engine's one enabled step while a command is in flight; none while idle (R122, 60_exceptions.md R250). -/
def engineStep (s : State) : Host.Outcome State Fault Refusal :=
  if s.status.busy = false ∨ s.phase = .idle then .next s
  else
    match decode s.latch.cmd with
    | .ok i => exec i s
    | .error _ => .next (illegalCommand s)

/-- At most `fuel` engine steps, up to the completion of the command in flight. -/
def runEngine : Nat → State → State
  | 0, s => s
  | fuel + 1, s =>
    if s.status.busy then
      match engineStep s with
      | .next t => runEngine fuel t
      | _ => s
    else s

/-- The state after the command in flight, if nothing else happens: CHECK and at most one step a block (40_sequencer.md
R131). -/
def State.afterCommand (s : State) : State := runEngine (s.lLen + s.latch.nblk + 2) s

end Sys2Proof.Machine
end

