-- ==== Sys2Proof/Machine/Window.lean ====
section
/-! DEFINITION. The register window: the register map, what a host reads and what a host write does (10_state.md). -/

namespace Sys2Proof.Machine

/-- The registers of the map (R21); `reserved` is every other offset (R44). -/
inductive Reg where
  | cmd
  | status
  | event
  | irqEn
  | srcAddr
  | dstAddr
  | len
  | keyAddr
  | keyLen
  | ivAddr
  | ivLen
  | slotState0
  | slotState1
  | slotDir
  | cvSel
  | param
  | id
  | cvWin (m : Nat)
  | reserved
  deriving DecidableEq, Repr

/-- The register at an offset that is a multiple of 4 (R21, R44). -/
def regAt (off : Nat) : Reg :=
  match off with
  | 0x000 => .cmd
  | 0x004 => .status
  | 0x008 => .event
  | 0x00C => .irqEn
  | 0x010 => .srcAddr
  | 0x014 => .dstAddr
  | 0x018 => .len
  | 0x01C => .keyAddr
  | 0x020 => .keyLen
  | 0x024 => .ivAddr
  | 0x028 => .ivLen
  | 0x030 => .slotState0
  | 0x034 => .slotState1
  | 0x038 => .slotDir
  | 0x040 => .cvSel
  | 0x044 => .param
  | 0x048 => .id
  | _ => if 0x080 ≤ off ∧ off < 0x100 then .cvWin ((off - 0x080) / 4) else .reserved

/-- Digits of a number, least significant first. -/
def digits (base : Nat) : List Nat → Nat
  | [] => 0
  | c :: rest => c + base * digits base rest

/-- Eight slot states from slot `first` on, slot first + k in bits [4k+3:4k] (R38). -/
def slotStateWord (slots : List Slot) (first : Nat) : Word :=
  BitVec.ofNat 32 (digits 16 (((slots.drop first).take 8).map (fun t => t.state.code)))

/-- Slot directions, slot s in bit [s] (R39). -/
def slotDirWord (slots : List Slot) : Word :=
  BitVec.ofNat 32 (digits 2 (slots.map (fun t => t.dir.bit)))

/-- The slot file as SLOT_STATE and SLOT_DIR show it: while BUSY = 1, before or after the command in flight, a free choice
(R38, R39; log entry 14). -/
def State.shownSlots (s : State) : List Slot :=
  if s.status.busy && Config.freeBool s.draws then s.afterCommand.slots else s.slots

/-- PARAM: B [7:0], K [15:8], NUM_SLOTS [20:16] (R40). -/
def paramWord (p : Params) : Word :=
  BitVec.ofNat 32 (p.blockBytes + p.keyBytes * 2 ^ 8 + p.numSlots * 2 ^ 16)

/-- ID (R41). -/
def idWord : Word := 0x43424301#32

/-- Byte j of slot n's CV as the window shows it: 0 beyond B and beyond the slot file (R42). -/
def State.cvByte (s : State) (n j : Nat) : Nat :=
  if n < s.params.numSlots ∧ j < s.params.blockBytes then ((s.slot n).cv.getD j 0).toNat else 0

/-- CV_WIN[m] of slot n, byte i in bits [8i+7:8i] (R42, 20_memory.md R65). -/
def State.cvWord (s : State) (n m : Nat) : Word :=
  BitVec.ofNat 32
    (digits 256 [s.cvByte n (4 * m), s.cvByte n (4 * m + 1), s.cvByte n (4 * m + 2), s.cvByte n (4 * m + 3)])

/-- A read of CV_WIN[m]: any value while BUSY = 1 and the command in flight names the selected slot, else exact
(R42, R43; 70_reset_and_hazards.md R282). -/
def State.readCvWin (s : State) (m : Nat) : Word :=
  if s.status.busy && s.namesSlot s.cvSel.toNat && decide (s.cvSel.toNat < s.params.numSlots) then
    Config.freeWord s.draws
  else s.cvWord s.cvSel.toNat m

/-- The value a host read returns (R21, R22, R44). -/
def State.readReg (s : State) (r : Reg) : Word :=
  match r with
  | .cmd => 0
  | .status => s.status.word
  | .event => s.event.word
  | .irqEn => s.irqEn.word
  | .srcAddr => s.args.srcAddr
  | .dstAddr => s.args.dstAddr
  | .len => s.args.len
  | .keyAddr => s.args.keyAddr
  | .keyLen => s.args.keyLen
  | .ivAddr => s.args.ivAddr
  | .ivLen => s.args.ivLen
  | .slotState0 => slotStateWord s.shownSlots 0
  | .slotState1 => slotStateWord s.shownSlots 8
  | .slotDir => slotDirWord s.shownSlots
  | .cvSel => s.cvSel.setWidth 32
  | .param => paramWord s.params
  | .id => idWord
  | .cvWin m => s.readCvWin m
  | .reserved => 0

/-- A host write: CMD issues a command, EVENT clears bits, the read-write registers store, all else is ignored
(R21, R22, R28, R29, R36, R37, R42, R44). -/
def State.writeReg (s : State) (r : Reg) (v : Word) : State :=
  match r with
  | .cmd => s.writeCmd v
  | .event => { s with event := s.event.clear v }
  | .irqEn => { s with irqEn := irqEnableOfWord v }
  | .srcAddr => { s with args := { s.args with srcAddr := v } }
  | .dstAddr => { s with args := { s.args with dstAddr := v } }
  | .len => { s with args := { s.args with len := v } }
  | .keyAddr => { s with args := { s.args with keyAddr := v } }
  | .keyLen => { s with args := { s.args with keyLen := v } }
  | .ivAddr => { s with args := { s.args with ivAddr := v } }
  | .ivLen => { s with args := { s.args with ivLen := v } }
  | .cvSel => { s with cvSel := v.setWidth 4 }
  | .status => s
  | .slotState0 => s
  | .slotState1 => s
  | .slotDir => s
  | .param => s
  | .id => s
  | .cvWin _ => s
  | .reserved => s

end Sys2Proof.Machine
end

