-- ==== Sys2Proof/Machine/HostPort.lean ====
section
/-! DEFINITION. What a host operation does: register accesses, accesses to system memory, polling (30_encoding.md R101,
R102; 20_memory.md R67, R76). -/

namespace Sys2Proof.Machine

/-- A host read returned `r`; a read while BUSY = 1 may have taken a free value (log entry 4). -/
def State.respond (s : State) (r : Response) : State :=
  { s with resp := r, draws := if s.status.busy then s.draws + 1 else s.draws }

/-- An aligned 32-bit access to the window, or the refusal (10_state.md R20, 20_memory.md R67; log entry 11). -/
def windowAccess (s : State) (addr : Nat) (width : AccessWidth) : Except Refusal Reg :=
  if ¬ Region.covers (windowRegion s.params) addr then .error .outsideWindow
  else if width ≠ .word ∨ (addr - s.params.base) % 4 ≠ 0 then .error .registerAccess
  else .ok (regAt (addr - s.params.base))

/-- Why a host access to `n` bytes of system memory from `a` on stops the run, if it does (20_memory.md R60, R67, R76). -/
def hostMemStop (s : State) (a n : Nat) : Option (Host.Outcome State Fault Refusal) :=
  if 2 ^ 32 < a + n then some (.fault .noSuchAddress)
  else if s.params.windowMapped && Region.meets (windowRegion s.params) a n then some (.refused .windowAsMemory)
  else if s.races a n then some (.fault .bufferRace)
  else none

/-- `rd REG` (R101). -/
def hostReadReg (addr : Nat) (width : AccessWidth) (s : State) : Host.Outcome State Fault Refusal :=
  match windowAccess s addr width with
  | .ok r => .next (s.respond (.word (s.readReg r)))
  | .error e => .refused e

/-- `wr REG, v` (R101). -/
def hostWriteReg (addr : Nat) (width : AccessWidth) (v : Word) (s : State) : Host.Outcome State Fault Refusal :=
  match windowAccess s addr width with
  | .ok r => .next (s.writeReg r v)
  | .error e => .refused e

/-- `memr a, n` (R101). -/
def hostReadMem (a n : Nat) (s : State) : Host.Outcome State Fault Refusal :=
  match hostMemStop s a n with
  | some o => o
  | none => .next (s.respond (.bytes (readBytes s.mem a n)))

/-- `memw a, bytes` (R101). -/
def hostWriteMem (a : Nat) (bs : Bytes) (s : State) : Host.Outcome State Fault Refusal :=
  match hostMemStop s a bs.length with
  | some o => o
  | none => .next (s.store a bs)

/-- One poll of `wait`: read STATUS; while BUSY = 1, let the engine take a step and poll again (R102; log entry 17). -/
def hostWait (s : State) : Host.Outcome State Fault Refusal :=
  .next
    (if s.status.busy then
      { s.respond (.word s.status.word) with inputs := .engine :: .host .wait :: s.inputs }
    else s.respond (.word s.status.word))

/-- One host operation (R101, R102). -/
def hostStep (op : HostOp) (s : State) : Host.Outcome State Fault Refusal :=
  match op with
  | .readReg addr width => hostReadReg addr width s
  | .writeReg addr width v => hostWriteReg addr width v s
  | .readMem a n => hostReadMem a n s
  | .writeMem a bs => hostWriteMem a bs s
  | .wait => hostWait s

end Sys2Proof.Machine
end

