-- ==== Sys2Proof/Machine/Step.lean ====
section
/-! DEFINITION. One step of the whole machine: the next agent acts (00_scope.md R5, 40_sequencer.md R122). -/

namespace Sys2Proof.Machine

/-- The oldest pending input happens; once none is pending, the engine takes its step (log entry 6). -/
def step (s : State) : Host.Outcome State Fault Refusal :=
  match s.inputs with
  | [] => engineStep s
  | .engine :: rest => engineStep { s with inputs := rest }
  | .host op :: rest => hostStep op { s with inputs := rest }
  | .reset :: rest => .next (State.platformReset { s with inputs := rest })

/-- `s` with the command word accepted and the engine's turn next: what a host's CMD write leaves (40_sequencer.md R120;
log entry 6). -/
def State.withFetchWord (s : State) (_nbits w : Nat) : State :=
  { s.accept (BitVec.ofNat 32 w) with inputs := .engine :: s.inputs }

end Sys2Proof.Machine
end

