-- ==== Sys2Proof/Safety.lean ====
section
/-! DEFINITION. What claims speak of: the invariant of the machine, runs of several steps, the CBC chain itself and the
assumption on a backend (10_state.md R35, R46; 40_sequencer.md R122; 42_update.md R161 to R174; 00_scope.md R9). -/

namespace Sys2Proof.Machine

/-- The slot invariants (10_state.md R35), with the widths of R33 and R34. A READY slot's key schedule is one that
`expand_key` returned for the slot's own direction, so from a key the backend does not reject (41_alloc_init.md R149,
R153). -/
structure Slot.Ok (p : Params) (t : Slot) : Prop where
  cvLength : t.cv.length = p.blockBytes
  ksWidth : t.ks < 2 ^ p.ksBits
  fresh : t.state = .free ∨ t.state = .allocated → t.dir = .enc ∧ t.cv = zeros p.blockBytes ∧ t.ks = 0
  expanded : t.state = .ready → ∃ key : Bytes, key.length = p.keyBytes ∧ keyRejected p t.dir key = false ∧
    t.ks = backendExpand p t.dir key
  erased : t.state = .finalized ∨ t.state = .failed → t.ks = 0

/-- INIT's conditions on slot `n`, those the checks have established when its EXEC_INIT step comes (40_sequencer.md
R123). -/
structure State.InitReady (s : State) (n : Nat) : Prop where
  inRange : n < s.params.numSlots
  allocated : (s.slot n).state = .allocated
  keyLen : s.lKeyLen = s.params.keyBytes
  ivLen : s.lIvLen = s.params.blockBytes
  keyRange : s.lKeyAddr + s.params.keyBytes ≤ 2 ^ 32
  ivRange : s.lIvAddr + s.params.blockBytes ≤ 2 ^ 32

/-- UPDATE's conditions on slot `n`, those the checks have established when its EXEC_BLOCK steps come (40_sequencer.md
R123). -/
structure State.UpdateReady (s : State) (n : Nat) : Prop where
  inRange : n < s.params.numSlots
  ready : (s.slot n).state = .ready
  dataLen : s.lLen % s.params.blockBytes = 0
  srcRange : s.lSrcAddr + s.lLen ≤ 2 ^ 32
  dstRange : s.lDstAddr + s.lLen ≤ 2 ^ 32

/-- What the phase says of the command in flight (40_sequencer.md R122). -/
structure State.PhaseOk (s : State) : Prop where
  busyIff : s.status.busy = true ↔ s.phase ≠ .idle
  idle : s.phase = .idle → s.latch = Latch.zero
  check : s.phase = .check → s.latch.nblk = 0 ∧ s.latch.i = 0
  execInit : s.phase = .execInit → ∃ n d, decode s.latch.cmd = .ok (.init n d) ∧ s.InitReady n
  execBlock : s.phase = .execBlock → ∃ n, decode s.latch.cmd = .ok (.update n) ∧ s.UpdateReady n ∧
    s.latch.nblk = s.lLen / s.params.blockBytes ∧ s.latch.i < s.latch.nblk

/-- The invariant of the machine between steps. -/
structure State.Inv (s : State) : Prop where
  params : s.params.wf = true
  slotCount : s.slots.length = s.params.numSlots
  slots : ∀ t ∈ s.slots, Slot.Ok s.params t
  memForm : Memory.wf s.mem = true
  memBound : Memory.below (2 ^ 32) s.mem = true
  legal : legalPair s.status.result s.status.cause = true
  keybuf : s.keybuf = zeros s.params.keyBytes
  ivbuf : s.ivbuf = zeros s.params.blockBytes
  phase : s.PhaseOk

/-- `n` steps of the machine. -/
def stepN : Nat → State → Host.Outcome State Fault Refusal
  | 0, s => .next s
  | n + 1, s =>
    match step s with
    | .next t => stepN n t
    | .fault r => .fault r
    | .refused r => .refused r

/-- The ciphertext blocks of a chain (42_update.md R161): `c = E(p XOR CV)`, `CV <- c`. -/
def cbcEncrypt (E : Bytes → Bytes) : Bytes → List Bytes → List Bytes
  | _, [] => []
  | cv, p :: rest => E (xorBytes p cv) :: cbcEncrypt E (E (xorBytes p cv)) rest

/-- The plaintext blocks of a chain (42_update.md R162): `p = D(c) XOR CV`, `CV <- c`. -/
def cbcDecrypt (D : Bytes → Bytes) : Bytes → List Bytes → List Bytes
  | _, [] => []
  | cv, c :: rest => xorBytes (D c) cv :: cbcDecrypt D c rest

/-- The last block of a list, the given one where there is none. -/
def lastBlock (cv : Bytes) : List Bytes → Bytes
  | [] => cv
  | c :: rest => lastBlock c rest

/-- `n` consecutive blocks of `b` bytes from `a` on. -/
def readBlocks (m : List Host.Cell) (a b : Nat) : Nat → List Bytes
  | 0 => []
  | n + 1 => readBytes m a b :: readBlocks m (a + b) b n

/-- None of the next `k` backend calls fails, and the bus admits both ranges of the command in flight: "no failure occurs"
in an UPDATE of `k` blocks (42_update.md R169), with BACKEND_MAY_FAIL true or false. -/
def State.NoFailure (s : State) (k : Nat) : Prop :=
  (∀ j < k, oracleFails s.params.failures (s.calls + j) = false) ∧
  rangeOk s.params s.lSrcAddr s.lLen = true ∧
  rangeOk s.params s.lDstAddr s.lLen = true

/-- BACKEND_INVERSE (00_scope.md R9): for every key that both expansions accept. A hypothesis on the backend, never a
fact of the controller. -/
def BackendInverse (p : Params) : Prop :=
  ∀ key x : Bytes, key.length = p.keyBytes → x.length = p.blockBytes →
    keyRejected p .enc key = false → keyRejected p .dec key = false →
    backendDecrypt p (backendExpand p .dec key) (backendEncrypt p (backendExpand p .enc key) x) = x

/-- It is the engine's turn, and `u` is `s` with that turn taken off the pending inputs (log entry 6). -/
def State.engineTurn (s u : State) : Prop :=
  (s.inputs = [] ∧ u = s) ∨ ∃ rest, s.inputs = .engine :: rest ∧ u = { s with inputs := rest }

/-- The bits [hi:lo] of a register word, as a number. -/
def field (w : Word) (hi lo : Nat) : Nat := (w.extractLsb hi lo).toNat

/-- Every field that no command writes: the parameters, the argument registers, IRQ_EN, CV_SEL, EVENT.OVERRUN, what is
pending and what a host has read. -/
def State.sameHostSide (s t : State) : Prop :=
  t.params = s.params ∧ t.args = s.args ∧ t.irqEn = s.irqEn ∧ t.cvSel = s.cvSel ∧
  t.event.overrun = s.event.overrun ∧ t.inputs = s.inputs ∧ t.resp = s.resp

/-- A command has ended with this pair: BUSY 0, DONE 1, the latch, KEYBUF and IVBUF erased, the phase IDLE; OVERRUN and the
host's side as they were (40_sequencer.md R125). RESULT_SLOT is spoken of apart. -/
def State.completed (s t : State) (r : ResultCode) (c : CauseCode) : Prop :=
  t.status.busy = false ∧ t.status.result = r ∧ t.status.cause = c ∧ t.event.done = true ∧ t.latch = Latch.zero ∧
  t.phase = .idle ∧ t.keybuf = zeros s.params.keyBytes ∧ t.ivbuf = zeros s.params.blockBytes ∧ s.sameHostSide t

/-- The slot file is as it was but for slot `n`. -/
def State.onlySlot (s t : State) (n : Nat) : Prop :=
  t.slots.length = s.slots.length ∧ ∀ m, m ≠ n → t.slot m = s.slot m

/-- Every byte outside a..a+k-1 reads as it did. -/
def State.onlyBytes (s t : State) (a k : Nat) : Prop :=
  ∀ b, b < a ∨ a + k ≤ b → readByte t.mem b = readByte s.mem b

/-- While BUSY = 1, byte `b` lies in the in-flight buffer set (20_memory.md R76): for UPDATE in its source or destination
range, for INIT in its key or IV range. -/
def State.inFlightByte (s : State) (b : Nat) : Prop :=
  s.status.busy = true ∧
  (((∃ n, decode s.latch.cmd = .ok (.update n)) ∧
      ((s.lSrcAddr ≤ b ∧ b < s.lSrcAddr + s.lLen) ∨ (s.lDstAddr ≤ b ∧ b < s.lDstAddr + s.lLen))) ∨
    ((∃ n d, decode s.latch.cmd = .ok (.init n d)) ∧
      ((s.lKeyAddr ≤ b ∧ b < s.lKeyAddr + s.params.keyBytes) ∨
        (s.lIvAddr ≤ b ∧ b < s.lIvAddr + s.params.blockBytes))))

/-- An UPDATE of slot `n` with these arguments, accepted with nothing else pending (40_sequencer.md R120). -/
def State.issueUpdate (s : State) (n : Nat) (src dst len : Word) : State :=
  { s with args := { s.args with srcAddr := src, dstAddr := dst, len := len }, inputs := [] }.accept
    (encode (.update n))

end Sys2Proof.Machine
end

