-- ==== Sys2Proof/Certificates/Slice0/Obligations.lean ====
section
/-! DEFINITION. The statements for the provers. Each docstring says which rule of spec/ it formalises. -/

open Sys2Proof Sys2Proof.Machine

/-! ## Encoding -/

/-- The example words of 30_encoding.md R99 and of 95_test_vectors.md section 3.1 decode to what they stand for. -/
def Obligations.SpecWordsDecode : Prop :=
  decode 0x00000001#32 = .ok .alloc ∧ decode 0x00000212#32 = .ok (.init 2 .dec) ∧
  decode 0x00000102#32 = .ok (.init 1 .enc) ∧ decode 0x00000203#32 = .ok (.update 2) ∧
  decode 0x00000F04#32 = .ok (.final 15) ∧ decode 0x00000305#32 = .ok (.free 3) ∧
  decode 0x00000106#32 = .ok (.copy 1 0) ∧ decode 0x00003106#32 = .ok (.copy 1 3) ∧
  (decode 0x00000101#32).toOption = none ∧ (decode 0x00000013#32).toOption = none ∧
  (decode 0x00000008#32).toOption = none ∧ (decode 0x80000003#32).toOption = none ∧
  (decode 0x00000042#32).toOption = none ∧ (decode 0x00000000#32).toOption = none

/-- Decoding the word of a well-formed command gives the command back, with every operand at every value its field
admits (30_encoding.md R98 to R100). -/
def Obligations.DecodeInvertsEncode : Prop :=
  ∀ i : Instr, i.wf = true → decode (encode i) = .ok i

/-- A word that decodes is the word of a well-formed command: the one it decodes to (30_encoding.md R97, R98). -/
def Obligations.EncodeInvertsDecode : Prop :=
  ∀ (w : Word) (i : Instr), decode w = .ok i → i.wf = true ∧ encode i = w

/-- 30_encoding.md R98, whole: the decode pseudocode for each command, ILLEGAL otherwise, and the table form, in which no
word matches two rows. -/
def Obligations.DecodeFollowsThePseudocode : Prop :=
  ∀ w : Word,
    (decode w = .ok .alloc ↔ field w 3 0 = 1 ∧ field w 31 4 = 0) ∧
    (∀ s d, decode w = .ok (.init s d) ↔
      field w 3 0 = 2 ∧ field w 31 12 = 0 ∧ field w 7 5 = 0 ∧ s = field w 11 8 ∧ d.bit = field w 4 4) ∧
    (∀ s, decode w = .ok (.update s) ↔
      field w 3 0 = 3 ∧ field w 31 12 = 0 ∧ field w 7 4 = 0 ∧ s = field w 11 8) ∧
    (∀ s, decode w = .ok (.final s) ↔
      field w 3 0 = 4 ∧ field w 31 12 = 0 ∧ field w 7 4 = 0 ∧ s = field w 11 8) ∧
    (∀ s, decode w = .ok (.free s) ↔
      field w 3 0 = 5 ∧ field w 31 12 = 0 ∧ field w 7 4 = 0 ∧ s = field w 11 8) ∧
    (∀ t r, decode w = .ok (.copy t r) ↔
      field w 3 0 = 6 ∧ field w 31 16 = 0 ∧ field w 7 4 = 0 ∧ t = field w 11 8 ∧ r = field w 15 12) ∧
    (∀ i, w &&& rowMask i = rowMatch i ↔ ∃ j, decode w = .ok j ∧ rowMatch j = rowMatch i) ∧
    (∀ i j, w &&& rowMask i = rowMatch i → w &&& rowMask j = rowMatch j → rowMatch i = rowMatch j)

/-- 30_encoding.md R97: which words are illegal; an illegal word is accepted like any other, and its CHECK step completes
it with BAD_PARAMETERS, ILLEGAL_CMD and changes no slot. -/
def Obligations.IllegalWordsAreReported : Prop :=
  ∀ w : Word,
    ((∃ e, decode w = .error e) ↔
      (field w 3 0 = 0 ∨ 7 ≤ field w 3 0) ∨ (field w 31 16 ≠ 0 ∨ field w 7 5 ≠ 0) ∨
      (field w 3 0 = 1 ∧ (field w 4 4 ≠ 0 ∨ field w 11 8 ≠ 0 ∨ field w 15 12 ≠ 0)) ∨
      ((field w 3 0 = 3 ∨ field w 3 0 = 4 ∨ field w 3 0 = 5) ∧ (field w 4 4 ≠ 0 ∨ field w 15 12 ≠ 0)) ∨
      (field w 3 0 = 2 ∧ field w 15 12 ≠ 0) ∨ (field w 3 0 = 6 ∧ field w 4 4 ≠ 0)) ∧
    ∀ s : State, (∃ e, decode w = .error e) →
      (s.status.busy = false → (s.writeCmd w).status.busy = true ∧ (s.writeCmd w).latch.cmd = w ∧
        (s.writeCmd w).phase = .check) ∧
      (s.status.busy = true → s.phase = .check → s.latch.cmd = w →
        ∃ t, engineStep s = .next t ∧ s.completed t .badParameters .illegalCmd ∧ t.slots = s.slots ∧
          t.mem = s.mem ∧ t.status.resultSlot = s.status.resultSlot)

/-! ## Reset -/

/-- The reset values of 10_state.md R49, each of them. (B, K and NUM_SLOTS are the parameters of log entry 1; PARAM is
their constant.) -/
def Obligations.ResetLeavesTheStatedValues : Prop :=
  State.reset.readReg .status = 0 ∧ State.reset.readReg .event = 0 ∧ State.reset.readReg .irqEn = 0 ∧
  State.reset.args = ⟨0, 0, 0, 0, 0, 0, 0⟩ ∧ State.reset.readReg .cvSel = 0 ∧
  State.reset.slots.length = State.reset.params.numSlots ∧
  (∀ n < State.reset.params.numSlots,
    State.reset.slot n = ⟨.free, .enc, zeros State.reset.params.blockBytes, 0⟩) ∧
  State.reset.latch = ⟨0, ⟨0, 0, 0, 0, 0, 0, 0⟩, 0, 0⟩ ∧ State.reset.phase = .idle ∧
  State.reset.keybuf = zeros State.reset.params.keyBytes ∧
  State.reset.ivbuf = zeros State.reset.params.blockBytes ∧
  State.reset.readReg .param = paramWord State.reset.params ∧ State.reset.readReg .id = 0x43424301#32 ∧
  State.reset.irq = false

/-- 70_reset_and_hazards.md R271 for a reset between any two steps: every register, slot, latch, buffer and the phase at
its reset value, IRQ deasserted, PARAM and ID as ever; memory kept where no block write was under way. -/
def Obligations.PlatformResetClearsTheController : Prop :=
  ∀ (s : State) (rest : List Input), s.inputs = .reset :: rest →
    ∃ t, step s = .next t ∧ t.status = ⟨false, .success, .none, 0⟩ ∧ t.event = ⟨false, false⟩ ∧
      t.irqEn = ⟨false, false⟩ ∧ t.args = ⟨0, 0, 0, 0, 0, 0, 0⟩ ∧ t.cvSel = 0 ∧
      t.slots = List.replicate s.params.numSlots ⟨.free, .enc, zeros s.params.blockBytes, 0⟩ ∧
      t.latch = Latch.zero ∧ t.phase = .idle ∧ t.keybuf = zeros s.params.keyBytes ∧
      t.ivbuf = zeros s.params.blockBytes ∧ t.irq = false ∧ t.params = s.params ∧ t.inputs = rest ∧
      t.readReg .param = s.readReg .param ∧ t.readReg .id = 0x43424301#32 ∧
      (s.phase ≠ .execBlock → t.mem = s.mem)

/-- 70_reset_and_hazards.md R272: a reset while BUSY = 1 completes nothing, and of memory it can change only the
destination bytes of the block whose write was under way. That none changes where that block's read is a bus error or
its backend call returns Error is the model's inference from 42_update.md R161, R162 and R168 (DEDUCED, log entry 15):
then no write is under way. -/
def Obligations.ResetDuringACommandTouchesOneBlock : Prop :=
  ∀ (s : State) (rest : List Input), Memory.wf s.mem = true → s.inputs = .reset :: rest → s.status.busy = true →
    ∃ t, step s = .next t ∧ t.event.done = false ∧ t.status.result = .success ∧ t.status.cause = .none ∧
      (∀ n < s.params.numSlots, t.slot n = ⟨.free, .enc, zeros s.params.blockBytes, 0⟩) ∧
      (s.phase = .execBlock → s.onlyBytes t s.blockOut s.params.blockBytes) ∧
      (rangeOk s.params s.blockIn s.params.blockBytes = false ∨ oracleFails s.params.failures s.calls = true →
        ∀ a, readByte t.mem a = readByte s.mem a) ∧
      (s.phase ≠ .execBlock → ∀ a, readByte t.mem a = readByte s.mem a)

/-! ## Registers -/

/-- 10_state.md R23: the fields of STATUS, its reset value, and that a write to it is ignored; with the numbers of the result
codes (60_exceptions.md R230) and of the cause codes (R231). -/
def Obligations.StatusShowsItsFields : Prop :=
  State.reset.readReg .status = 0 ∧
  (ResultCode.success.code = 0 ∧ ResultCode.badParameters.code = 1 ∧ ResultCode.badState.code = 2 ∧
    ResultCode.outOfMemory.code = 3) ∧
  (CauseCode.none.code = 0x00 ∧ CauseCode.illegalCmd.code = 0x01 ∧ CauseCode.slotRange.code = 0x02 ∧
    CauseCode.keyLen.code = 0x03 ∧ CauseCode.ivLen.code = 0x04 ∧ CauseCode.dataLen.code = 0x05 ∧
    CauseCode.addrRange.code = 0x06 ∧ CauseCode.seq.code = 0x10 ∧ CauseCode.keyExpand.code = 0x11 ∧
    CauseCode.blockXform.code = 0x12 ∧ CauseCode.busError.code = 0x13 ∧ CauseCode.noFreeSlot.code = 0x20) ∧
  ∀ s : State,
    field (s.readReg .status) 0 0 = s.status.busy.toNat ∧ field (s.readReg .status) 3 1 = 0 ∧
    field (s.readReg .status) 7 4 = s.status.result.code ∧ field (s.readReg .status) 15 8 = s.status.cause.code ∧
    field (s.readReg .status) 19 16 = s.status.resultSlot.toNat ∧ field (s.readReg .status) 31 20 = 0 ∧
    ∀ v, s.writeReg .status v = s

/-- 10_state.md R28: EVENT's bits, their reset value, write-1-to-clear, what sets each bit, that a set bit stays set and
that a read of EVENT changes nothing (but `resp` and `draws`, log entries 4 and 8). -/
def Obligations.EventIsWriteOneToClear : Prop :=
  State.reset.readReg .event = 0 ∧
  ∀ (s : State) (v : Word),
    s.writeReg .event v =
      { s with event := ⟨s.event.done && !v.getLsbD 0, s.event.overrun && !v.getLsbD 1⟩ } ∧
    field (s.readReg .event) 0 0 = s.event.done.toNat ∧ field (s.readReg .event) 1 1 = s.event.overrun.toNat ∧
    field (s.readReg .event) 31 2 = 0 ∧
    (∀ r c, (s.complete r c).event = ⟨true, s.event.overrun⟩) ∧
    (s.status.busy = true → (s.writeReg .cmd v).event = ⟨s.event.done, true⟩) ∧
    hostStep (.readReg (s.params.base + 0x008) .word) s =
      .next { s with
        resp := .word (s.readReg .event)
        draws := if s.status.busy then s.draws + 1 else s.draws }

/-- 10_state.md R29: IRQ_EN resets to 0 and keeps bits [1:0] of what a host writes; each enables the interrupt for the
EVENT bit of its place, at once where that bit is already set (60_exceptions.md R242); nothing else changes. -/
def Obligations.IrqEnableKeepsTwoBits : Prop :=
  State.reset.readReg .irqEn = 0 ∧
  ∀ (s : State) (v : Word), (s.writeReg .irqEn v).readReg .irqEn = v &&& 3#32 ∧
    ((s.writeReg .irqEn v).irq = true ↔
      (s.event.done = true ∧ v.getLsbD 0 = true) ∨ (s.event.overrun = true ∧ v.getLsbD 1 = true)) ∧
    ∃ q, s.writeReg .irqEn v = { s with irqEn := q }

/-- 60_exceptions.md R241: the IRQ line, a function of EVENT and IRQ_EN in every state, deasserted at reset. -/
def Obligations.IrqFollowsEventAndEnable : Prop :=
  State.reset.irq = false ∧
  ∀ s : State, s.irq = true ↔
    (s.event.done = true ∧ s.irqEn.doneEn = true) ∨ (s.event.overrun = true ∧ s.irqEn.overrunEn = true)

/-- 10_state.md R36, R37: each argument register holds any value a host writes and shows it, and such a write changes nothing
else, no other register, slot, latch or byte of memory; and the controller never writes one: a step that is neither a host's register write nor a reset leaves them all. -/
def Obligations.ArgumentRegistersBelongToTheHost : Prop :=
  (∀ (s : State) (v : Word),
    (s.writeReg .srcAddr v).readReg .srcAddr = v ∧ (s.writeReg .dstAddr v).readReg .dstAddr = v ∧
    (s.writeReg .len v).readReg .len = v ∧ (s.writeReg .keyAddr v).readReg .keyAddr = v ∧
    (s.writeReg .keyLen v).readReg .keyLen = v ∧ (s.writeReg .ivAddr v).readReg .ivAddr = v ∧
    (s.writeReg .ivLen v).readReg .ivLen = v ∧
    s.writeReg .srcAddr v = { s with args := { s.args with srcAddr := v } } ∧
    s.writeReg .dstAddr v = { s with args := { s.args with dstAddr := v } } ∧
    s.writeReg .len v = { s with args := { s.args with len := v } } ∧
    s.writeReg .keyAddr v = { s with args := { s.args with keyAddr := v } } ∧
    s.writeReg .keyLen v = { s with args := { s.args with keyLen := v } } ∧
    s.writeReg .ivAddr v = { s with args := { s.args with ivAddr := v } } ∧
    s.writeReg .ivLen v = { s with args := { s.args with ivLen := v } }) ∧
  ∀ s t : State, step s = .next t → t.args ≠ s.args →
    (∃ addr width v rest, s.inputs = .host (.writeReg addr width v) :: rest) ∨ ∃ rest, s.inputs = .reset :: rest

/-- 20_memory.md R69, first line, and 10_state.md R22: a register read changes nothing but what the host has read (and
how many free values were taken, log entry 4). -/
def Obligations.RegisterReadsHaveNoEffect : Prop :=
  ∀ (s t : State) (addr : Nat) (width : AccessWidth), hostStep (.readReg addr width) s = .next t →
    t = { s with resp := t.resp, draws := t.draws } ∧
    (s.status.busy = false → t = { s with resp := t.resp })

/-- 10_state.md R44: reserved offsets, CMD and the reserved bits read 0; writes to reserved offsets and to read-only
registers have no effect. -/
def Obligations.ReservedSpaceIsInert : Prop :=
  ∀ s : State,
    (∀ off, off % 4 = 0 → off = 0x02C ∨ off = 0x03C ∨ (0x04C ≤ off ∧ off ≤ 0x07C) →
      s.readReg (regAt off) = 0 ∧ ∀ v, s.writeReg (regAt off) v = s) ∧
    s.readReg (regAt 0x000) = 0 ∧
    (∀ off, off % 4 = 0 →
      off = 0x004 ∨ off = 0x030 ∨ off = 0x034 ∨ off = 0x038 ∨ off = 0x044 ∨ off = 0x048 ∨
        (0x080 ≤ off ∧ off ≤ 0x0FC) → ∀ v, s.writeReg (regAt off) v = s) ∧
    field (s.readReg .status) 3 1 = 0 ∧ field (s.readReg .status) 31 20 = 0 ∧ field (s.readReg .event) 31 2 = 0 ∧
    field (s.readReg .irqEn) 31 2 = 0 ∧ field (s.readReg .cvSel) 31 4 = 0 ∧
    (s.params.wf = true → field (s.readReg .param) 31 21 = 0)

/-- 20_memory.md R67: a register access in the window that is not an aligned 32-bit one is refused, read or write; an
aligned 32-bit one is carried out. -/
def Obligations.OddRegisterAccessesAreRefused : Prop :=
  ∀ (s : State) (off : Nat) (width : AccessWidth) (v : Word), off < 256 →
    (width ≠ .word ∨ off % 4 ≠ 0 →
      hostStep (.readReg (s.params.base + off) width) s = .refused .registerAccess ∧
      hostStep (.writeReg (s.params.base + off) width v) s = .refused .registerAccess) ∧
    (width = .word → off % 4 = 0 →
      hostStep (.readReg (s.params.base + off) width) s = .next (s.respond (.word (s.readReg (regAt off)))) ∧
      hostStep (.writeReg (s.params.base + off) width v) s = .next (s.writeReg (regAt off) v))

/-- 10_state.md R42: CV_SEL keeps four bits of a write, which changes nothing else; byte i of CV_WIN[m] is CV byte 4m+i of the selected slot, 0 beyond B and
for an index beyond the slot file; writes to the window are ignored. The reads that R43 leaves open are left out; which those are, the model's choice of log
entry 13 says. -/
def Obligations.CvWindowShowsTheSelectedCv : Prop :=
  ∀ (s : State) (m i : Nat), m < 32 → i < 4 →
    (∀ v, (s.writeReg .cvSel v).readReg .cvSel = v &&& 15#32 ∧ (∃ c, s.writeReg .cvSel v = { s with cvSel := c }) ∧
      s.writeReg (.cvWin m) v = s) ∧
    (s.status.busy = false ∨ s.namesSlot s.cvSel.toNat = false →
      field (s.readReg (regAt (0x080 + 4 * m))) (8 * i + 7) (8 * i) =
        if s.cvSel.toNat < s.params.numSlots ∧ 4 * m + i < s.params.blockBytes then
          ((s.slot s.cvSel.toNat).cv.getD (4 * m + i) 0).toNat
        else 0)

/-- 10_state.md R38 and R39: SLOT_STATE0/1 and SLOT_DIR are read-only and show each slot's state and direction by the numbers
of R31 and R32, 0 beyond the slot file; while BUSY = 1 the field of a slot the command in flight names may show the
value after the command instead. Two clauses are the model's choice: which slot a command names (`namesSlot`, log entry
13), and that the value after the command is what the engine leaves if it runs alone (`afterCommand`, log entry 14). -/
def Obligations.SlotRegistersShowTheSlots : Prop :=
  (SlotState.free.code = 0 ∧ SlotState.allocated.code = 1 ∧ SlotState.ready.code = 2 ∧ SlotState.finalized.code = 3 ∧
    SlotState.failed.code = 4 ∧ Dir.enc.bit = 0 ∧ Dir.dec.bit = 1) ∧
  ∀ (s : State) (k : Nat), s.Inv → k < 16 →
    (∀ w b, w = s.readReg (if k < 8 then .slotState0 else .slotState1) → b = 4 * (k % 8) →
      (s.params.numSlots ≤ k → field w (b + 3) b = 0) ∧
      (k < s.params.numSlots →
        (field w (b + 3) b = (s.slot k).state.code ∨
          (s.status.busy = true ∧ s.namesSlot k = true ∧
            field w (b + 3) b = (s.afterCommand.slot k).state.code)))) ∧
    (s.params.numSlots ≤ k → field (s.readReg .slotDir) k k = 0) ∧
    (k < s.params.numSlots →
      (field (s.readReg .slotDir) k k = (s.slot k).dir.bit ∨
        (s.status.busy = true ∧ s.namesSlot k = true ∧
          field (s.readReg .slotDir) k k = (s.afterCommand.slot k).dir.bit))) ∧
    field (s.readReg .slotDir) 31 16 = 0 ∧
    ∀ v, s.writeReg .slotState0 v = s ∧ s.writeReg .slotState1 v = s ∧ s.writeReg .slotDir v = s

/-- 10_state.md R40 and R41: PARAM and ID are constants, and no step changes what they show. -/
def Obligations.ParamAndIdAreConstant : Prop :=
  ∀ s : State,
    (s.params.wf = true →
      field (s.readReg .param) 7 0 = s.params.blockBytes ∧ field (s.readReg .param) 15 8 = s.params.keyBytes ∧
      field (s.readReg .param) 20 16 = s.params.numSlots ∧ field (s.readReg .param) 31 21 = 0) ∧
    s.readReg .id = 0x43424301#32 ∧
    ∀ t, step s = .next t → t.params = s.params ∧ t.readReg .param = s.readReg .param

/-! ## The sequencer -/

/-- 40_sequencer.md R120: a CMD write while BUSY = 0 latches the word and the argument registers, sets BUSY and enters
CHECK; RESULT, CAUSE, RESULT_SLOT and EVENT stay. -/
def Obligations.CmdWriteIsAccepted : Prop :=
  ∀ (s : State) (w : Word) (rest : List Input), s.status.busy = false →
    s.inputs = .host (.writeReg s.params.base .word w) :: rest →
    step s = .next { s with
      inputs := rest
      latch := ⟨w, s.args, 0, 0⟩
      status := ⟨true, s.status.result, s.status.cause, s.status.resultSlot⟩
      phase := .check }

/-- 40_sequencer.md R121: a CMD write while BUSY = 1 sets EVENT.OVERRUN and changes nothing else. -/
def Obligations.CmdWriteWhileBusyIsDropped : Prop :=
  ∀ (s : State) (w : Word) (rest : List Input), s.status.busy = true →
    s.inputs = .host (.writeReg s.params.base .word w) :: rest →
    step s = .next { s with inputs := rest, event := ⟨s.event.done, true⟩ }

/-- 40_sequencer.md R122: while BUSY = 0 the engine has no step; with nothing pending the machine stays as it is
(60_exceptions.md R250). -/
def Obligations.IdleEngineHasNoStep : Prop :=
  ∀ s u : State, s.engineTurn u → s.status.busy = false → step s = .next u

/-- A step at the engine's turn is `exec` of the command in the latch, where that word decodes (40_sequencer.md R122). -/
def Obligations.StepRunsTheCommandInFlight : Prop :=
  ∀ (s u : State) (i : Instr), s.engineTurn u → s.status.busy = true → s.phase ≠ .idle →
    decode s.latch.cmd = .ok i → step s = exec i u

/-- 40_sequencer.md R123: the checks in their order, the first that fails deciding the completion, for every command. -/
def Obligations.ChecksRunInOrder : Prop :=
  ∀ s : State, s.status.busy = true → s.phase = .check →
    ((∃ e, decode s.latch.cmd = .error e) → engineStep s = .next (s.complete .badParameters .illegalCmd)) ∧
    (decode s.latch.cmd = .ok .alloc → (∀ n < s.slots.length, (s.slot n).state ≠ .free) →
      engineStep s = .next (s.complete .outOfMemory .noFreeSlot)) ∧
    (∀ n d, decode s.latch.cmd = .ok (.init n d) →
      engineStep s = .next
        (if s.params.numSlots ≤ n then s.complete .badParameters .slotRange
         else if (s.slot n).state ≠ .allocated then s.complete .badState .seq
         else if s.lKeyLen ≠ s.params.keyBytes then s.complete .badParameters .keyLen
         else if s.lIvLen ≠ s.params.blockBytes then s.complete .badParameters .ivLen
         else if s.lKeyAddr + s.params.keyBytes > 2 ^ 32 ∨ s.lIvAddr + s.params.blockBytes > 2 ^ 32 then
           s.complete .badParameters .addrRange
         else { s with phase := .execInit })) ∧
    (∀ n, decode s.latch.cmd = .ok (.update n) →
      (s.params.numSlots ≤ n → engineStep s = .next (s.complete .badParameters .slotRange)) ∧
      (n < s.params.numSlots → (s.slot n).state ≠ .ready → engineStep s = .next (s.complete .badState .seq)) ∧
      (n < s.params.numSlots → (s.slot n).state = .ready → s.lLen % s.params.blockBytes ≠ 0 →
        engineStep s = .next (s.complete .badParameters .dataLen)) ∧
      (n < s.params.numSlots → (s.slot n).state = .ready → s.lLen % s.params.blockBytes = 0 →
        s.lSrcAddr + s.lLen > 2 ^ 32 ∨ s.lDstAddr + s.lLen > 2 ^ 32 →
        engineStep s = .next (s.complete .badParameters .addrRange))) ∧
    (∀ n, decode s.latch.cmd = .ok (.final n) →
      (s.params.numSlots ≤ n → engineStep s = .next (s.complete .badParameters .slotRange)) ∧
      (n < s.params.numSlots → (s.slot n).state ≠ .ready → engineStep s = .next (s.complete .badState .seq))) ∧
    (∀ n, decode s.latch.cmd = .ok (.free n) →
      (s.params.numSlots ≤ n → engineStep s = .next (s.complete .badParameters .slotRange)) ∧
      (n < s.params.numSlots → (s.slot n).state = .free → engineStep s = .next (s.complete .badState .seq))) ∧
    (∀ t r, decode s.latch.cmd = .ok (.copy t r) →
      (s.params.numSlots ≤ t ∨ s.params.numSlots ≤ r →
        engineStep s = .next (s.complete .badParameters .slotRange)) ∧
      (t < s.params.numSlots → r < s.params.numSlots →
        (s.slot r).state ≠ .ready ∨ (s.slot t).state = .free ∨ (s.slot t).state = .failed →
        engineStep s = .next (s.complete .badState .seq)))

/-- 40_sequencer.md R124: a CHECK step that ends a command with an error has only the effects of `complete`: every slot,
all of memory and the backend stay as they were. -/
def Obligations.FailedChecksChangeNothing : Prop :=
  ∀ s t : State, s.status.busy = true → s.phase = .check → engineStep s = .next t →
    t.status.busy = false → t.status.result ≠ .success →
    t = s.complete t.status.result t.status.cause ∧ t.slots = s.slots ∧ t.mem = s.mem ∧ t.calls = s.calls

/-- 40_sequencer.md R127: the validator table. In a CHECK step on slots of the file, the command completes with BAD_STATE,
SEQ exactly where the table says SEQ. -/
def Obligations.ValidatorFollowsTheTable : Prop :=
  ∀ (s : State) (n r : Nat), s.phase = .check → n < s.params.numSlots → r < s.params.numSlots →
    (∀ d, exec (.init n d) s = .next (s.complete .badState .seq) ↔ (s.slot n).state ≠ .allocated) ∧
    (exec (.update n) s = .next (s.complete .badState .seq) ↔ (s.slot n).state ≠ .ready) ∧
    (exec (.final n) s = .next (s.complete .badState .seq) ↔ (s.slot n).state ≠ .ready) ∧
    (exec (.free n) s = .next (s.complete .badState .seq) ↔ (s.slot n).state = .free) ∧
    (exec (.copy n r) s = .next (s.complete .badState .seq) ↔
      (s.slot r).state ≠ .ready ∨ (s.slot n).state = .free ∨ (s.slot n).state = .failed)

/-- 40_sequencer.md R128: a FAILED slot accepts only FREE, and only FREE and reset take a slot out of FAILED. -/
def Obligations.FailedSlotsAcceptOnlyFree : Prop :=
  (∀ (s : State) (n m : Nat), s.phase = .check → n < s.params.numSlots → m < s.params.numSlots →
    (s.slot n).state = .failed →
    (∀ d, exec (.init n d) s = .next (s.complete .badState .seq)) ∧
    exec (.update n) s = .next (s.complete .badState .seq) ∧
    exec (.final n) s = .next (s.complete .badState .seq) ∧
    exec (.copy n m) s = .next (s.complete .badState .seq) ∧
    exec (.copy m n) s = .next (s.complete .badState .seq) ∧
    ∃ t, exec (.free n) s = .next t ∧ (n < s.slots.length → (t.slot n).state = .free)) ∧
  ∀ (s t : State) (n : Nat), s.Inv → n < s.params.numSlots → step s = .next t → (s.slot n).state = .failed →
    (t.slot n).state ≠ .failed →
    (∃ rest, s.inputs = .reset :: rest) ∨
    ∃ u, s.engineTurn u ∧ decode s.latch.cmd = .ok (.free n) ∧ s.phase = .check ∧ (t.slot n).state = .free

/-- 40_sequencer.md R129: the only changes of a slot's state, over every step of the machine. -/
def Obligations.LifecycleTransitions : Prop :=
  ∀ (s t : State) (n : Nat), s.Inv → n < s.params.numSlots → step s = .next t →
    (t.slot n).state ≠ (s.slot n).state →
    ((∃ rest, s.inputs = .reset :: rest) ∧ (t.slot n).state = .free) ∨
    ((∃ u, s.engineTurn u) ∧ s.status.busy = true ∧ t.status.busy = false ∧ ∃ i, decode s.latch.cmd = .ok i ∧
      ((i = .alloc ∧ s.firstFree = some n ∧ (s.slot n).state = .free ∧ (t.slot n).state = .allocated ∧
          t.status.result = .success) ∨
       ((∃ d, i = .init n d) ∧ (s.slot n).state = .allocated ∧ (t.slot n).state = .ready ∧
          t.status.result = .success) ∨
       ((∃ d, i = .init n d) ∧ s.phase = .execInit ∧ (s.slot n).state = .allocated ∧ (t.slot n).state = .failed ∧
          (t.status.cause = .keyExpand ∨ t.status.cause = .busError)) ∨
       (i = .update n ∧ s.phase = .execBlock ∧ (s.slot n).state = .ready ∧ (t.slot n).state = .failed ∧
          (t.status.cause = .blockXform ∨ t.status.cause = .busError)) ∨
       (i = .final n ∧ (s.slot n).state = .ready ∧ (t.slot n).state = .finalized ∧ t.status.result = .success) ∨
       (i = .free n ∧ (t.slot n).state = .free ∧ t.status.result = .success) ∨
       (∃ r, i = .copy n r ∧ r ≠ n ∧ (s.slot r).state = .ready ∧
          ((s.slot n).state = .allocated ∨ (s.slot n).state = .finalized) ∧ (t.slot n).state = .ready ∧
          t.status.result = .success)))

/-- 40_sequencer.md R125: the step that ends a command leaves BUSY 0, DONE 1, a legal RESULT and CAUSE pair, the latch,
KEYBUF and IVBUF erased and the phase IDLE. -/
def Obligations.CompletionClearsTheEngine : Prop :=
  ∀ s t : State, s.status.busy = true → s.phase ≠ .idle → engineStep s = .next t → t.status.busy = false →
    s.completed t t.status.result t.status.cause ∧ legalPair t.status.result t.status.cause = true

/-- 10_state.md R24, with the reset of 70_reset_and_hazards.md R271: BUSY rises only by the acceptance of a command and
falls only by its completion. -/
def Obligations.BusyChangesInTwoPlacesOnly : Prop :=
  ∀ s t : State, step s = .next t →
    (s.status.busy = false → t.status.busy = true →
      ∃ w rest, s.inputs = .host (.writeReg s.params.base .word w) :: rest ∧ t.latch.cmd = w ∧ t.phase = .check) ∧
    (s.status.busy = true → t.status.busy = false →
      (∃ rest, s.inputs = .reset :: rest) ∨ ((∃ u, s.engineTurn u) ∧ t.event.done = true))

/-- 60_exceptions.md R232: which pairs a command can report when a step of it ends it, and the effect each pair has on the
slots. -/
def Obligations.ReportsFollowTheTable : Prop :=
  ∀ (s t : State) (i : Instr), s.phase ≠ .idle → s.status.busy = true → exec i s = .next t → t.status.busy = false →
    (t.status.result = .success ∧ t.status.cause = .none) ∨
    (t.status.result = .badParameters ∧ t.slots = s.slots ∧
      ((t.status.cause = .slotRange ∧ i ≠ .alloc) ∨
       ((t.status.cause = .keyLen ∨ t.status.cause = .ivLen) ∧ ∃ n d, i = .init n d) ∨
       (t.status.cause = .dataLen ∧ ∃ n, i = .update n) ∨
       (t.status.cause = .addrRange ∧ ((∃ n d, i = .init n d) ∨ ∃ n, i = .update n)))) ∨
    (t.status.result = .badState ∧ t.status.cause = .seq ∧ t.slots = s.slots ∧ i ≠ .alloc) ∨
    (t.status.result = .badState ∧
      ((t.status.cause = .keyExpand ∧ ∃ n d, i = .init n d ∧ (n < s.slots.length → (t.slot n).state = .failed)) ∨
       (t.status.cause = .blockXform ∧ ∃ n, i = .update n ∧ (n < s.slots.length → (t.slot n).state = .failed)) ∨
       (t.status.cause = .busError ∧ ∃ n, (i = .update n ∨ ∃ d, i = .init n d) ∧
          (n < s.slots.length → (t.slot n).state = .failed)))) ∨
    (t.status.result = .outOfMemory ∧ t.status.cause = .noFreeSlot ∧ t.slots = s.slots ∧ i = .alloc)

/-- 10_state.md R27: an ALLOC that succeeds writes the index it allocated into RESULT_SLOT, and nothing else writes it
(reset clears it, R49). -/
def Obligations.ResultSlotIsWrittenByAllocOnly : Prop :=
  (∀ (s : State) (n : Nat), s.firstFree = some n →
    ∃ t, exec .alloc s = .next t ∧ t.status.result = .success ∧ t.status.resultSlot = BitVec.ofNat 4 n ∧
      (t.slot n).state = .allocated) ∧
  ∀ s t : State, step s = .next t → t.status.resultSlot ≠ s.status.resultSlot →
    (∃ rest, s.inputs = .reset :: rest) ∨
    ((∃ u, s.engineTurn u) ∧ decode s.latch.cmd = .ok .alloc ∧ t.status.result = .success ∧
      t.status.cause = .none ∧ t.status.busy = false ∧
      ∃ n, s.firstFree = some n ∧ t.status.resultSlot = BitVec.ofNat 4 n)

/-- 40_sequencer.md R131: every accepted command completes within one CHECK step, plus one EXEC_INIT step or one step a
block, with the engine alone at work. -/
def Obligations.EveryCommandCompletes : Prop :=
  ∀ s : State, s.Inv → s.inputs = [] → s.phase = .check →
    ∃ k t, stepN k s = .next t ∧ t.status.busy = false ∧ t.event.done = true ∧
      1 ≤ k ∧
      k ≤ (match decode s.latch.cmd with
           | .ok (.init _ _) => 2
           | .ok (.update _) => 1 + s.lLen / s.params.blockBytes
           | _ => 1)

/-! ## The memory port and the hosts' memory accesses -/

/-- 20_memory.md R62: `MemRead` reports a bus error exactly when it touches a byte that `bus_ok` refuses, and otherwise
returns the bytes of memory in address order. -/
def Obligations.MemReadReturnsTheBytes : Prop :=
  ∀ (s : State) (a n : Nat),
    (memRead s a n = none ↔ ∃ j < n, busOk s.params (a + j) = false) ∧
    ∀ v, memRead s a n = some v → v.length = n ∧ ∀ j < n, v[j]? = some (readByte s.mem (a + j))

/-- 20_memory.md R63: the effect of `MemWrite` with and without a bus error, on every byte of memory, and that the
canonical form of memory is kept. -/
def Obligations.MemWriteStoresTheBytes : Prop :=
  ∀ (s : State) (a : Nat) (v : Bytes), Memory.wf s.mem = true →
    (Memory.wf (s.store a v).mem = true ∧ s.onlyBytes (s.store a v) a v.length ∧
      ∀ j < v.length, v[j]? = some (readByte (s.store a v).mem (a + j))) ∧
    (Memory.wf (s.scramble a v.length).mem = true ∧ s.onlyBytes (s.scramble a v.length) a v.length ∧
      ∀ b, busOk s.params b = false → readByte (s.scramble a v.length).mem b = readByte s.mem b)

/-- 70_reset_and_hazards.md R278 with 20_memory.md R76: a host access to a byte of the in-flight buffer set while
BUSY = 1 is a hazard fault; for UPDATE and for INIT, byte by byte. (An access that touches a mapped register window is
refused instead, log entry 12.) -/
def Obligations.BufferRacesAreFaults : Prop :=
  ∀ (s : State) (a b k : Nat) (bs : Bytes), s.inFlightByte b →
    s.params.windowMapped = false ∨ Region.meets (windowRegion s.params) a k = false →
    a + k ≤ 2 ^ 32 → a ≤ b → b < a + k → bs.length = k →
    hostStep (.readMem a k) s = .fault .bufferRace ∧ hostStep (.writeMem a bs) s = .fault .bufferRace

/-- 30_encoding.md R101, `memr` and `memw`, with 20_memory.md R60: an access that touches no byte of the in-flight buffer
set, so any access while BUSY = 0, reads the bytes of memory in address order or writes exactly the bytes it names.
(A read while BUSY = 1 counts a free value whether or not it takes one, log entry 4.) -/
def Obligations.HostMemoryAccessesReachMemory : Prop :=
  ∀ (s : State) (a n : Nat) (bs : Bytes), (∀ b, a ≤ b → b < a + n → ¬ s.inFlightByte b) →
    s.params.windowMapped = false ∨ Region.meets (windowRegion s.params) a n = false →
    Memory.wf s.mem = true → a + n ≤ 2 ^ 32 → bs.length = n →
    hostStep (.readMem a n) s = .next { s with
      resp := .bytes (readBytes s.mem a n)
      draws := if s.status.busy then s.draws + 1 else s.draws } ∧
    ∃ t, hostStep (.writeMem a bs) s = .next t ∧ readBytes t.mem a n = bs ∧ s.onlyBytes t a n ∧
      t = { s with mem := t.mem }

/-! ## ALLOC -/

/-- 41_alloc_init.md R141 with the pseudocode of R140: ALLOC zeroes and allocates the least FREE slot and returns its
index; every other slot and all of memory stay. With no FREE slot it changes nothing. -/
def Obligations.AllocTakesTheLeastFreeSlot : Prop :=
  ∀ s : State,
    (∀ n < s.slots.length, (s.slot n).state = .free → (∀ m < n, (s.slot m).state ≠ .free) →
      ∃ t, exec .alloc s = .next t ∧ t.slot n = ⟨.allocated, .enc, zeros s.params.blockBytes, 0⟩ ∧
        s.onlySlot t n ∧ t.status.resultSlot = BitVec.ofNat 4 n ∧ s.completed t .success .none ∧ t.mem = s.mem ∧
        t.calls = s.calls ∧ t.draws = s.draws) ∧
    ((∀ n < s.slots.length, (s.slot n).state ≠ .free) →
      ∃ t, exec .alloc s = .next t ∧ t.slots = s.slots ∧ t.status.resultSlot = s.status.resultSlot ∧
        s.completed t .outOfMemory .noFreeSlot ∧ t.mem = s.mem)

/-! ## INIT -/

/-- 41_alloc_init.md R143, the EXEC_INIT step without a failure, so with a key the backend accepts (R153), with R149: CV is the IV, DIR the command's direction, KS
the expansion of the key for that direction, the slot READY; no byte of memory is written. -/
def Obligations.InitInstallsIvAndKeySchedule : Prop :=
  ∀ (s : State) (n : Nat) (d : Dir), s.phase = .execInit → n < s.slots.length →
    rangeOk s.params s.lIvAddr s.params.blockBytes = true → rangeOk s.params s.lKeyAddr s.params.keyBytes = true →
    keyRejected s.params d (readBytes s.mem s.lKeyAddr s.params.keyBytes) = false →
    oracleFails s.params.failures s.calls = false →
    ∃ t, exec (.init n d) s = .next t ∧
      t.slot n = ⟨.ready, d, readBytes s.mem s.lIvAddr s.params.blockBytes,
        backendExpand s.params d (readBytes s.mem s.lKeyAddr s.params.keyBytes)⟩ ∧
      s.onlySlot t n ∧ s.completed t .success .none ∧ t.mem = s.mem ∧
      t.status.resultSlot = s.status.resultSlot ∧ t.calls = s.calls + 1 ∧ t.draws = s.draws

/-- 41_alloc_init.md R148: a bus error on either read fails INIT before CV, DIR or KS is written; the slot is FAILED with
the CV and DIR of an ALLOCATED slot. -/
def Obligations.InitBusErrorFailsTheSlot : Prop :=
  ∀ (s : State) (n : Nat) (d : Dir), s.Inv → s.phase = .execInit → decode s.latch.cmd = .ok (.init n d) →
    rangeOk s.params s.lIvAddr s.params.blockBytes = false ∨ rangeOk s.params s.lKeyAddr s.params.keyBytes = false →
    ∃ t, exec (.init n d) s = .next t ∧ t.slot n = ⟨.failed, .enc, zeros s.params.blockBytes, 0⟩ ∧
      s.onlySlot t n ∧ s.completed t .badState .busError ∧ t.mem = s.mem ∧ t.calls = s.calls

/-- 41_alloc_init.md R150: when `expand_key` returns Error, because the backend rejects the key (R153) or because the draw
fails the call (60_exceptions.md R236), the slot is FAILED, KS is zeroed, CV keeps the IV and DIR keeps
the command's direction. -/
def Obligations.KeyExpansionFailureFailsTheSlot : Prop :=
  ∀ (s : State) (n : Nat) (d : Dir), s.phase = .execInit → n < s.slots.length →
    rangeOk s.params s.lIvAddr s.params.blockBytes = true → rangeOk s.params s.lKeyAddr s.params.keyBytes = true →
    keyRejected s.params d (readBytes s.mem s.lKeyAddr s.params.keyBytes) = true ∨
      oracleFails s.params.failures s.calls = true →
    ∃ t, exec (.init n d) s = .next t ∧
      t.slot n = ⟨.failed, d, readBytes s.mem s.lIvAddr s.params.blockBytes, 0⟩ ∧
      s.onlySlot t n ∧ s.completed t .badState .keyExpand ∧ t.mem = s.mem ∧ t.calls = s.calls + 1

/-! ## UPDATE -/

/-- UPDATE's CHECK step where every check passes and LEN > 0 (42_update.md R160): the block count, and EXEC_BLOCK. -/
def Obligations.UpdateStartsItsBlocks : Prop :=
  ∀ (s : State) (n : Nat), s.phase = .check → s.params.wf = true → s.UpdateReady n → 0 < s.lLen →
    exec (.update n) s = .next { s with
      phase := .execBlock
      latch := ⟨s.latch.cmd, s.latch.args, s.lLen / s.params.blockBytes, s.latch.i⟩ }

/-- 42_update.md R171: UPDATE with LEN = 0 on a READY slot completes with SUCCESS, NONE in its CHECK step, without a memory
access or a backend call, and changes no slot. -/
def Obligations.UpdateOfLengthZeroSucceeds : Prop :=
  ∀ (s : State) (n : Nat), s.phase = .check → n < s.params.numSlots → (s.slot n).state = .ready → s.lLen = 0 →
    ∃ t, exec (.update n) s = .next t ∧ s.completed t .success .none ∧ t.slots = s.slots ∧ t.mem = s.mem ∧
      t.calls = s.calls ∧ t.draws = s.draws

/-- 42_update.md R161: the encrypt block step: `c = E(p XOR CV)` to the destination, `CV <- c`, all in one step; then the
next block, or completion after the last one. -/
def Obligations.EncryptBlockStep : Prop :=
  ∀ (s : State) (n : Nat) (c : Bytes), s.phase = .execBlock → Memory.wf s.mem = true → n < s.slots.length →
    (s.slot n).dir = .enc → rangeOk s.params s.blockIn s.params.blockBytes = true →
    rangeOk s.params s.blockOut s.params.blockBytes = true → oracleFails s.params.failures s.calls = false →
    c = backendEncrypt s.params (s.slot n).ks
      (xorBytes (readBytes s.mem s.blockIn s.params.blockBytes) (s.slot n).cv) →
    ∃ t, exec (.update n) s = .next t ∧ readBytes t.mem s.blockOut s.params.blockBytes = c ∧
      s.onlyBytes t s.blockOut s.params.blockBytes ∧
      t.slot n = ⟨(s.slot n).state, .enc, c, (s.slot n).ks⟩ ∧ s.onlySlot t n ∧
      t.calls = s.calls + 1 ∧ t.status.resultSlot = s.status.resultSlot ∧
      (if s.latch.i + 1 = s.latch.nblk then s.completed t .success .none
       else s.sameHostSide t ∧ t.status = s.status ∧ t.event = s.event ∧ t.phase = .execBlock ∧
        t.latch = ⟨s.latch.cmd, s.latch.args, s.latch.nblk, s.latch.i + 1⟩)

/-- 42_update.md R162: the decrypt block step: `p = D(c) XOR CV` to the destination, `CV <- c`, the input ciphertext as it
was read, all in one step; then the next block, or completion after the last one. -/
def Obligations.DecryptBlockStep : Prop :=
  ∀ (s : State) (n : Nat) (c : Bytes), s.phase = .execBlock → Memory.wf s.mem = true → n < s.slots.length →
    (s.slot n).dir = .dec → (s.slot n).cv.length = s.params.blockBytes →
    rangeOk s.params s.blockIn s.params.blockBytes = true →
    rangeOk s.params s.blockOut s.params.blockBytes = true → oracleFails s.params.failures s.calls = false →
    c = readBytes s.mem s.blockIn s.params.blockBytes →
    ∃ t, exec (.update n) s = .next t ∧
      readBytes t.mem s.blockOut s.params.blockBytes =
        xorBytes (backendDecrypt s.params (s.slot n).ks c) (s.slot n).cv ∧
      s.onlyBytes t s.blockOut s.params.blockBytes ∧
      t.slot n = ⟨(s.slot n).state, .dec, c, (s.slot n).ks⟩ ∧ s.onlySlot t n ∧
      t.calls = s.calls + 1 ∧ t.status.resultSlot = s.status.resultSlot ∧
      (if s.latch.i + 1 = s.latch.nblk then s.completed t .success .none
       else s.sameHostSide t ∧ t.status = s.status ∧ t.event = s.event ∧ t.phase = .execBlock ∧
        t.latch = ⟨s.latch.cmd, s.latch.args, s.latch.nblk, s.latch.i + 1⟩)

/-- 42_update.md R168, for the block at hand: after a failure the slot is FAILED with KS = 0, its CV and DIR as they were;
memory is as it was after a read or backend failure, and after a write failure outside the admitted bytes of the
block. -/
def Obligations.BlockFailureKeepsTheChain : Prop :=
  ∀ (s : State) (n : Nat), s.phase = .execBlock → Memory.wf s.mem = true → n < s.slots.length →
    (rangeOk s.params s.blockIn s.params.blockBytes = false →
      ∃ t, exec (.update n) s = .next t ∧ s.completed t .badState .busError ∧ t.mem = s.mem ∧
        t.slot n = ⟨.failed, (s.slot n).dir, (s.slot n).cv, 0⟩ ∧ s.onlySlot t n) ∧
    (rangeOk s.params s.blockIn s.params.blockBytes = true → oracleFails s.params.failures s.calls = true →
      ∃ t, exec (.update n) s = .next t ∧ s.completed t .badState .blockXform ∧ t.mem = s.mem ∧
        t.slot n = ⟨.failed, (s.slot n).dir, (s.slot n).cv, 0⟩ ∧ s.onlySlot t n) ∧
    (rangeOk s.params s.blockIn s.params.blockBytes = true → oracleFails s.params.failures s.calls = false →
      rangeOk s.params s.blockOut s.params.blockBytes = false →
      ∃ t, exec (.update n) s = .next t ∧ s.completed t .badState .busError ∧
        s.onlyBytes t s.blockOut s.params.blockBytes ∧
        (∀ a, busOk s.params a = false → readByte t.mem a = readByte s.mem a) ∧
        t.slot n = ⟨.failed, (s.slot n).dir, (s.slot n).cv, 0⟩ ∧ s.onlySlot t n)

/-! ## FINAL, FREE and COPY -/

/-- 43_final_free.md R190, R191 and R193: FINAL on a READY slot leaves it FINALIZED with KS zeroed and CV and DIR
unchanged. -/
def Obligations.FinalReleasesTheKeySchedule : Prop :=
  ∀ (s : State) (n : Nat), n < s.params.numSlots → n < s.slots.length → (s.slot n).state = .ready →
    ∃ t, exec (.final n) s = .next t ∧ t.slot n = ⟨.finalized, (s.slot n).dir, (s.slot n).cv, 0⟩ ∧
      s.onlySlot t n ∧ s.completed t .success .none ∧ t.status.resultSlot = s.status.resultSlot ∧
      t.mem = s.mem ∧ t.calls = s.calls ∧ t.draws = s.draws

/-- 43_final_free.md R195 and R196: FREE on any allocated slot erases KS, CV and DIR; the slot is as a reset one, and no
transient buffer holds anything. -/
def Obligations.FreeErasesTheSlot : Prop :=
  ∀ (s : State) (n : Nat), n < s.params.numSlots → n < s.slots.length → (s.slot n).state ≠ .free →
    ∃ t, exec (.free n) s = .next t ∧ t.slot n = ⟨.free, .enc, zeros s.params.blockBytes, 0⟩ ∧
      t.keybuf = zeros s.params.keyBytes ∧ t.ivbuf = zeros s.params.blockBytes ∧
      s.onlySlot t n ∧ s.completed t .success .none ∧ t.status.resultSlot = s.status.resultSlot ∧
      t.mem = s.mem ∧ t.calls = s.calls ∧ t.draws = s.draws

/-- 44_copy_state.md R210 to R212: COPY from a READY slot to an ALLOCATED, READY or FINALIZED one makes the destination
READY with the source's DIR, CV and KS and leaves every other slot; a self-copy succeeds and writes nothing. -/
def Obligations.CopyClonesTheSlot : Prop :=
  ∀ (s : State) (t r : Nat), t < s.params.numSlots → r < s.params.numSlots → t < s.slots.length →
    (s.slot r).state = .ready →
    (s.slot t).state = .allocated ∨ (s.slot t).state = .ready ∨ (s.slot t).state = .finalized →
    ∃ u, exec (.copy t r) s = .next u ∧ u.slot t = ⟨.ready, (s.slot r).dir, (s.slot r).cv, (s.slot r).ks⟩ ∧
      u.slot r = s.slot r ∧ s.onlySlot u t ∧ (t = r → u.slots = s.slots) ∧ s.completed u .success .none ∧
      u.status.resultSlot = s.status.resultSlot ∧ u.mem = s.mem ∧ u.calls = s.calls ∧ u.draws = s.draws

/-! ## Frames -/

/-- No command writes a slot other than the ones it names, ALLOC the one it allocates, COPY only its destination
(10_state.md R30, 44_copy_state.md R213). -/
def Obligations.CommandsWriteOnlyTheirSlot : Prop :=
  ∀ (s t : State) (i : Instr) (m : Nat), exec i s = .next t →
    (match i with
     | .alloc => s.firstFree ≠ some m
     | .init n _ => m ≠ n
     | .update n => m ≠ n
     | .final n => m ≠ n
     | .free n => m ≠ n
     | .copy n _ => m ≠ n) →
    t.slot m = s.slot m ∧ t.slots.length = s.slots.length

/-- The frame of every command on the registers: the argument registers, IRQ_EN, CV_SEL, EVENT.OVERRUN, the parameters,
the pending inputs and the last response stay; STATUS, EVENT.DONE, KEYBUF and IVBUF change only by completion, RESULT_SLOT
by ALLOC only (10_state.md R25 to R28, R36, R37, R46). -/
def Obligations.CommandsLeaveTheHostsRegisters : Prop :=
  ∀ (s t : State) (i : Instr), exec i s = .next t →
    s.sameHostSide t ∧ (i ≠ .alloc → t.status.resultSlot = s.status.resultSlot) ∧
    (s.completed t t.status.result t.status.cause ∨
      (t.status = s.status ∧ t.event = s.event ∧ t.keybuf = s.keybuf ∧ t.ivbuf = s.ivbuf ∧
        t.latch.cmd = s.latch.cmd ∧ t.latch.args = s.latch.args))

/-- The frame of every command on memory: UPDATE stores to the destination bytes of its current block alone and to none
in its CHECK step, ALLOC, INIT, FINAL, FREE and COPY store nothing (42_update.md R165, 20_memory.md R63, R76). -/
def Obligations.CommandsStoreOnlyTheirBlock : Prop :=
  ∀ (s t : State) (i : Instr), Memory.wf s.mem = true → exec i s = .next t →
    (∀ n, i = .update n → s.phase = .execBlock → s.onlyBytes t s.blockOut s.params.blockBytes) ∧
    ((∃ n, i = .update n) → s.phase ≠ .execBlock → ∀ a, readByte t.mem a = readByte s.mem a) ∧
    ((∀ n, i ≠ .update n) → t.mem = s.mem ∧ ∀ a, readByte t.mem a = readByte s.mem a)

/-! ## The invariant -/

/-- The state after reset meets the invariant (10_state.md R35, R46, R49). -/
def Obligations.ResetMeetsTheInvariant : Prop := State.reset.Inv

/-- Every step of every agent keeps the invariant: the slot invariants of 10_state.md R35, KEYBUF and IVBUF zero between
steps (R46), the phase and BUSY in agreement (40_sequencer.md R122), the legal result pairs (60_exceptions.md R232), the
canonical form of memory. -/
def Obligations.EveryStepKeepsTheInvariant : Prop :=
  ∀ s t : State, s.Inv → step s = .next t → t.Inv

/-! ## Whole commands -/

/-- 42_update.md R160, R161, R165, R166, R170: an UPDATE of an ENC slot, run alone to its end with no failure, in place or
with a destination no later block reads, writes the CBC encryption of the source blocks as they stood at the start,
leaves CV at the last ciphertext block and every byte outside the destination alone. -/
def Obligations.UpdateEncryptsTheChain : Prop :=
  ∀ (s : State) (k n : Nat) (E : Bytes → Bytes), s.Inv → s.inputs = [] → s.phase = .check →
    decode s.latch.cmd = .ok (.update n) → s.UpdateReady n → (s.slot n).dir = .enc → s.NoFailure k →
    0 < k → s.lLen = k * s.params.blockBytes → s.lDstAddr ≤ s.lSrcAddr ∨ s.lSrcAddr + s.lLen ≤ s.lDstAddr →
    E = backendEncrypt s.params (s.slot n).ks →
    ∃ t, stepN (1 + k) s = .next t ∧ s.completed t .success .none ∧
      readBlocks t.mem s.lDstAddr s.params.blockBytes k =
        cbcEncrypt E (s.slot n).cv (readBlocks s.mem s.lSrcAddr s.params.blockBytes k) ∧
      t.slot n = ⟨.ready, .enc,
        lastBlock (s.slot n).cv (cbcEncrypt E (s.slot n).cv (readBlocks s.mem s.lSrcAddr s.params.blockBytes k)),
        (s.slot n).ks⟩ ∧
      s.onlySlot t n ∧ s.onlyBytes t s.lDstAddr s.lLen

/-- 42_update.md R160, R162, R165, R166, R170: the same for a DEC slot; CV ends at the last input ciphertext block. -/
def Obligations.UpdateDecryptsTheChain : Prop :=
  ∀ (s : State) (k n : Nat) (D : Bytes → Bytes), s.Inv → s.inputs = [] → s.phase = .check →
    decode s.latch.cmd = .ok (.update n) → s.UpdateReady n → (s.slot n).dir = .dec → s.NoFailure k →
    0 < k → s.lLen = k * s.params.blockBytes → s.lDstAddr ≤ s.lSrcAddr ∨ s.lSrcAddr + s.lLen ≤ s.lDstAddr →
    D = backendDecrypt s.params (s.slot n).ks →
    ∃ t, stepN (1 + k) s = .next t ∧ s.completed t .success .none ∧
      readBlocks t.mem s.lDstAddr s.params.blockBytes k =
        cbcDecrypt D (s.slot n).cv (readBlocks s.mem s.lSrcAddr s.params.blockBytes k) ∧
      t.slot n = ⟨.ready, .dec,
        lastBlock (s.slot n).cv (readBlocks s.mem s.lSrcAddr s.params.blockBytes k), (s.slot n).ks⟩ ∧
      s.onlySlot t n ∧ s.onlyBytes t s.lDstAddr s.lLen

/-- 42_update.md R169: two UPDATEs on adjacent ranges leave the memory and the slots that one UPDATE on the whole range
leaves, for any overlap of the ranges. -/
def Obligations.SplitUpdatesEqualOne : Prop :=
  ∀ (s t1 t2 t : State) (n k1 k2 : Nat) (src dst len1 len2 len : Word), s.Inv → s.status.busy = false →
    n < s.params.numSlots → (s.slot n).state = .ready → (s.issueUpdate n src dst len).NoFailure (k1 + k2) →
    len1.toNat = k1 * s.params.blockBytes → len2.toNat = k2 * s.params.blockBytes →
    len.toNat = len1.toNat + len2.toNat → src.toNat + len.toNat ≤ 2 ^ 32 → dst.toNat + len.toNat ≤ 2 ^ 32 →
    stepN (1 + k1) (s.issueUpdate n src dst len1) = .next t1 →
    stepN (1 + k2) (t1.issueUpdate n (src + len1) (dst + len1) len2) = .next t2 →
    stepN (1 + k1 + k2) (s.issueUpdate n src dst len) = .next t →
    t1.status.busy = false ∧ t2.status.busy = false ∧ t.status.busy = false ∧
      t2.mem = t.mem ∧ t2.slots = t.slots ∧ t2.status = t.status

/-- 42_update.md R174 under BACKEND_INVERSE (00_scope.md R9): what an ENC slot's UPDATE has written, a DEC slot with the
same key and IV turns back into the plaintext. -/
def Obligations.DecryptionRestoresThePlaintext : Prop :=
  ∀ (s t u : State) (n m k : Nat) (key : Bytes) (src dst back len : Word), s.Inv → s.status.busy = false →
    BackendInverse s.params → key.length = s.params.keyBytes →
    keyRejected s.params .enc key = false → keyRejected s.params .dec key = false →
    n < s.params.numSlots → m < s.params.numSlots → n ≠ m →
    (s.slot n).state = .ready → (s.slot n).dir = .enc → (s.slot n).ks = backendExpand s.params .enc key →
    (s.slot m).state = .ready → (s.slot m).dir = .dec → (s.slot m).ks = backendExpand s.params .dec key →
    (s.slot m).cv = (s.slot n).cv → 0 < k → len.toNat = k * s.params.blockBytes →
    src.toNat + len.toNat ≤ dst.toNat ∨ dst.toNat ≤ src.toNat →
    dst.toNat + len.toNat ≤ back.toNat ∨ back.toNat ≤ dst.toNat →
    src.toNat + len.toNat ≤ 2 ^ 32 → dst.toNat + len.toNat ≤ 2 ^ 32 → back.toNat + len.toNat ≤ 2 ^ 32 →
    (s.issueUpdate n src dst len).NoFailure k → (t.issueUpdate m dst back len).NoFailure k →
    stepN (1 + k) (s.issueUpdate n src dst len) = .next t →
    stepN (1 + k) (t.issueUpdate m dst back len) = .next u →
    u.status.busy = false ∧ u.status.result = .success ∧
      readBlocks u.mem back.toNat s.params.blockBytes k = readBlocks s.mem src.toNat s.params.blockBytes k ∧
      (u.slot m).cv = (u.slot n).cv

/-- 44_copy_state.md R215: a slot and its clone, given the same UPDATE, write the same memory and end with the same
chaining vector. R215 speaks of runs in which no failure occurs. That the two agree in a run that fails too (42_update.md
R168) is the model's choice, no rule of the spec: which calls fail is an oracle on the call's index (60_exceptions.md
R236, log entry 3), and the bytes of a failed write are free values by the counter of draws (20_memory.md R63, log entry
4), so both runs, from one state, meet the same draws. -/
def Obligations.CloneContinuesLikeTheOriginal : Prop :=
  ∀ (s u v : State) (t r k : Nat) (src dst len : Word), s.Inv → s.status.busy = false →
    t < s.params.numSlots → r < s.params.numSlots → s.slot t = s.slot r → (s.slot r).state = .ready →
    stepN k (s.issueUpdate t src dst len) = .next u → stepN k (s.issueUpdate r src dst len) = .next v →
    u.mem = v.mem ∧ u.slot t = v.slot r ∧ u.status = v.status

/-- 10_state.md R34, 60_exceptions.md R249: no host access reads a key schedule. Two states that differ in key schedules alone
answer every host operation alike, and stay alike but for key schedules. That the reads which R38, R39 and R43 leave open
while BUSY = 1 are answered alike too is the model's choice, no rule of the spec: the free values depend on the counter
of draws alone, which both states share (log entry 4), and the value after the command is what the engine leaves if it
runs alone, with the draws of the failure oracle by the call's index (log entries 14 and 3). -/
def Obligations.KeySchedulesNeverReachTheHost : Prop :=
  ∀ (s s' : State) (op : HostOp), s.Inv → s'.Inv →
    s' = { s with slots := s'.slots } → s'.slots.length = s.slots.length →
    (∀ n < s.slots.length, ∃ ks, s'.slot n = { s.slot n with ks := ks }) →
    (∀ t, hostStep op s = .next t → hostStep op s' = .next { t with slots := s'.slots }) ∧
    (∀ f, hostStep op s = .fault f → hostStep op s' = .fault f) ∧
    (∀ e, hostStep op s = .refused e → hostStep op s' = .refused e)
end

