-- ==== Sys2Proof/Laws/Memory.lean ====
section
/-! SUPPORT. System memory: reading after writing, and that every memory operation keeps the canonical form. -/

namespace Sys2Proof.Machine

theorem wfAbove_mono {m : List Host.Cell} {lo hi : Nat} (h : Memory.wfAbove hi m = true) (hle : lo ≤ hi) :
    Memory.wfAbove lo m = true := by
  cases m with
  | nil => rfl
  | cons c rest =>
    obtain ⟨a, v⟩ := c
    simp only [Memory.wfAbove, Bool.and_eq_true, decide_eq_true_eq] at h ⊢
    exact ⟨⟨by omega, h.1.2⟩, h.2⟩

/-- Below the first listed address everything reads as unwritten. -/
theorem readByte_below {m : List Host.Cell} {lo a : Nat} (h : Memory.wfAbove lo m = true) (ha : a < lo) :
    readByte m a = unwrittenByte := by
  induction m generalizing lo with
  | nil => rfl
  | cons c rest ih =>
    obtain ⟨b, v⟩ := c
    simp only [Memory.wfAbove, Bool.and_eq_true, decide_eq_true_eq] at h
    have hab : a ≠ b := by omega
    simp only [readByte, if_neg hab]
    exact ih h.2 (by omega)

theorem wfAbove_putByte {rest : List Host.Cell} {lo a : Nat} (v : Byte) (h : Memory.wfAbove (a + 1) rest = true)
    (hlo : lo ≤ a) : Memory.wfAbove lo (putByte a v rest) = true := by
  unfold putByte
  split
  · exact wfAbove_mono h (by omega)
  · simp_all [Memory.wfAbove]

theorem wfAbove_writeByte {m : List Host.Cell} {lo a : Nat} (v : Byte) (h : Memory.wfAbove lo m = true)
    (hlo : lo ≤ a) : Memory.wfAbove lo (writeByte m a v) = true := by
  induction m generalizing lo with
  | nil => exact wfAbove_putByte v rfl hlo
  | cons c rest ih =>
    obtain ⟨b, w⟩ := c
    have h' := h
    simp only [Memory.wfAbove, Bool.and_eq_true, decide_eq_true_eq] at h
    unfold writeByte
    split
    · refine wfAbove_putByte v ?_ hlo
      simp only [Memory.wfAbove, Bool.and_eq_true, decide_eq_true_eq]
      exact ⟨⟨by omega, h.1.2⟩, h.2⟩
    · split
      · subst_vars
        exact wfAbove_putByte v h.2 hlo
      · simp only [Memory.wfAbove, Bool.and_eq_true, decide_eq_true_eq]
        exact ⟨h.1, ih h.2 (by omega)⟩

theorem wf_writeByte {m : List Host.Cell} (a : Nat) (v : Byte) (h : Memory.wf m = true) :
    Memory.wf (writeByte m a v) = true := wfAbove_writeByte v h (Nat.zero_le a)

theorem readByte_putByte {rest : List Host.Cell} {a : Nat} (v : Byte) (h : Memory.wfAbove (a + 1) rest = true)
    (b : Nat) : readByte (putByte a v rest) b = if b = a then v else readByte rest b := by
  unfold putByte
  split
  · split
    · subst_vars
      exact readByte_below h (by omega)
    · rfl
  · rfl

/-- A read after a write of one byte: the byte written there, the old byte elsewhere. -/
theorem readByte_writeByteAbove {m : List Host.Cell} {lo : Nat} (h : Memory.wfAbove lo m = true) (a : Nat) (v : Byte)
    (b : Nat) : readByte (writeByte m a v) b = if b = a then v else readByte m b := by
  induction m generalizing lo with
  | nil =>
    simp only [writeByte]
    exact readByte_putByte v rfl b
  | cons c rest ih =>
    obtain ⟨x, w⟩ := c
    have h' := h
    simp only [Memory.wfAbove, Bool.and_eq_true, decide_eq_true_eq] at h
    unfold writeByte
    split
    · refine readByte_putByte v ?_ b
      simp only [Memory.wfAbove, Bool.and_eq_true, decide_eq_true_eq]
      exact ⟨⟨by omega, h.1.2⟩, h.2⟩
    · split
      · subst_vars
        rw [readByte_putByte v h.2]
        simp only [readByte]
        split <;> rfl
      · simp only [readByte, ih h.2]
        split
        · have : b ≠ a := by omega
          simp [this]
        · rfl

theorem readByte_writeByte {m : List Host.Cell} (h : Memory.wf m = true) (a : Nat) (v : Byte) (b : Nat) :
    readByte (writeByte m a v) b = if b = a then v else readByte m b := readByte_writeByteAbove h a v b

theorem wf_writeBytes {m : List Host.Cell} (h : Memory.wf m = true) (a : Nat) (bs : Bytes) :
    Memory.wf (writeBytes m a bs) = true := by
  induction bs generalizing m a with
  | nil => exact h
  | cons v rest ih => exact ih (wf_writeByte a v h) (a + 1)

/-- A byte outside a..a+n-1 keeps its value when n bytes are written from a on. -/
theorem readByte_writeBytes_outside {m : List Host.Cell} (h : Memory.wf m = true) (a : Nat) (bs : Bytes) (b : Nat)
    (hb : b < a ∨ a + bs.length ≤ b) : readByte (writeBytes m a bs) b = readByte m b := by
  induction bs generalizing m a with
  | nil => rfl
  | cons v rest ih =>
    simp only [List.length_cons] at hb
    have hne : b ≠ a := by omega
    simp only [writeBytes]
    rw [ih (wf_writeByte a v h) (a + 1) (by omega), readByte_writeByte h, if_neg hne]

@[simp] theorem length_readBytes (m : List Host.Cell) (a n : Nat) : (readBytes m a n).length = n := by
  induction n generalizing a with
  | zero => rfl
  | succ n ih => simp [readBytes, ih]

/-- Two memories that agree on a..a+n-1 give the same n bytes. -/
theorem readBytes_congr {m m' : List Host.Cell} (a n : Nat)
    (h : ∀ b, a ≤ b → b < a + n → readByte m b = readByte m' b) : readBytes m a n = readBytes m' a n := by
  induction n generalizing a with
  | zero => rfl
  | succ n ih =>
    simp only [readBytes]
    rw [h a (by omega) (by omega), ih (a + 1) (fun b h1 h2 => h b (by omega) (by omega))]

/-- Reading back what was just written. -/
theorem readBytes_writeBytes_same {m : List Host.Cell} (h : Memory.wf m = true) (a : Nat) (bs : Bytes) :
    readBytes (writeBytes m a bs) a bs.length = bs := by
  induction bs generalizing m a with
  | nil => rfl
  | cons v rest ih =>
    simp only [writeBytes, List.length_cons, readBytes]
    rw [ih (wf_writeByte a v h) (a + 1),
      readByte_writeBytes_outside (wf_writeByte a v h) (a + 1) rest a (by omega), readByte_writeByte h, if_pos rfl]

/-- A read of n bytes that a write does not touch. -/
theorem readBytes_writeBytes_disjoint {m : List Host.Cell} (h : Memory.wf m = true) (a : Nat) (bs : Bytes) (b n : Nat)
    (hd : b + n ≤ a ∨ a + bs.length ≤ b) : readBytes (writeBytes m a bs) b n = readBytes m b n :=
  readBytes_congr b n fun c h1 h2 => readByte_writeBytes_outside h a bs c (by omega)

theorem wf_scrambleBytes {p : Params} {m : List Host.Cell} (h : Memory.wf m = true) (a d n : Nat) :
    Memory.wf (scrambleBytes p m a d n) = true := by
  induction n generalizing m a d with
  | zero => exact h
  | succ n ih =>
    simp only [scrambleBytes]
    split
    · exact ih (wf_writeByte a _ h) _ _
    · exact ih h _ _

/-- A failed write leaves every byte alone that lies outside its range or that the bus refuses. -/
theorem readByte_scrambleBytes {p : Params} {m : List Host.Cell} (h : Memory.wf m = true) (a d n b : Nat)
    (hb : (b < a ∨ a + n ≤ b) ∨ busOk p b = false) : readByte (scrambleBytes p m a d n) b = readByte m b := by
  induction n generalizing m a d with
  | zero => rfl
  | succ n ih =>
    simp only [scrambleBytes]
    split
    · rename_i hok
      have hne : b ≠ a := by
        rintro rfl
        rcases hb with hb | hb
        · omega
        · simp [hok] at hb
      rw [ih (wf_writeByte a _ h) _ _ (hb.imp (fun h => by omega) id),
        readByte_writeByte h, if_neg hne]
    · exact ih h _ _ (hb.imp (fun h => by omega) id)

/-- Canonical memories that read the same at every address are the same list. -/
theorem memory_ext_above {m m' : List Host.Cell} {lo : Nat} (h : Memory.wfAbove lo m = true)
    (h' : Memory.wfAbove lo m' = true) (heq : ∀ a, readByte m a = readByte m' a) : m = m' := by
  induction m generalizing m' lo with
  | nil =>
    cases m' with
    | nil => rfl
    | cons c rest =>
      obtain ⟨a, v⟩ := c
      simp only [Memory.wfAbove, Bool.and_eq_true, decide_eq_true_eq] at h'
      exact absurd ((heq a).symm.trans rfl) (by simpa [readByte] using h'.1.2)
  | cons c rest ih =>
    obtain ⟨a, v⟩ := c
    cases m' with
    | nil =>
      simp only [Memory.wfAbove, Bool.and_eq_true, decide_eq_true_eq] at h
      exact absurd ((heq a).trans rfl) (by simpa [readByte] using h.1.2)
    | cons c' rest' =>
      obtain ⟨a', v'⟩ := c'
      have hm := h
      have hm' := h'
      simp only [Memory.wfAbove, Bool.and_eq_true, decide_eq_true_eq] at h h'
      have haa : a = a' := by
        rcases Nat.lt_trichotomy a a' with hlt | he | hgt
        · have h1 := heq a
          have h2 : readByte ((a', v') :: rest') a = unwrittenByte :=
            readByte_below (lo := a') (by simp [Memory.wfAbove, h'.1.2, h'.2]) hlt
          rw [h2] at h1
          exact absurd h1 (by simpa [readByte] using h.1.2)
        · exact he
        · have h1 := heq a'
          have h2 : readByte ((a, v) :: rest) a' = unwrittenByte :=
            readByte_below (lo := a) (by simp [Memory.wfAbove, h.1.2, h.2]) hgt
          rw [h2] at h1
          exact absurd h1.symm (by simpa [readByte] using h'.1.2)
      subst haa
      have hv : v = v' := by simpa [readByte] using heq a
      subst hv
      have : rest = rest' := by
        refine ih h.2 h'.2 fun b => ?_
        by_cases hb : b = a
        · subst hb
          rw [readByte_below h.2 (by omega), readByte_below h'.2 (by omega)]
        · simpa [readByte, hb] using heq b
      rw [this]

theorem memory_ext {m m' : List Host.Cell} (h : Memory.wf m = true) (h' : Memory.wf m' = true)
    (heq : ∀ a, readByte m a = readByte m' a) : m = m' := memory_ext_above h h' heq

theorem below_putByte {hi a : Nat} {v : Byte} {m : List Host.Cell} (h : Memory.below hi m = true) (ha : a < hi) :
    Memory.below hi (putByte a v m) = true := by
  unfold putByte
  split
  · exact h
  · simp only [Memory.below, List.all_cons, Bool.and_eq_true, decide_eq_true_eq]
    exact ⟨ha, h⟩

theorem below_writeByte {hi a : Nat} {v : Byte} {m : List Host.Cell} (h : Memory.below hi m = true) (ha : a < hi) :
    Memory.below hi (writeByte m a v) = true := by
  induction m with
  | nil => exact below_putByte rfl ha
  | cons c rest ih =>
    obtain ⟨b, w⟩ := c
    simp only [Memory.below, List.all_cons, Bool.and_eq_true] at h
    unfold writeByte
    split
    · exact below_putByte (by simpa [Memory.below] using h) ha
    · split
      · exact below_putByte h.2 ha
      · simp only [Memory.below, List.all_cons, Bool.and_eq_true]
        exact ⟨h.1, ih h.2⟩

theorem below_writeBytes {hi a : Nat} {bs : Bytes} {m : List Host.Cell} (h : Memory.below hi m = true)
    (ha : a + bs.length ≤ hi) : Memory.below hi (writeBytes m a bs) = true := by
  induction bs generalizing m a with
  | nil => exact h
  | cons v rest ih =>
    simp only [List.length_cons] at ha
    exact ih (below_writeByte h (by omega)) (by omega)

theorem busOk_lt {p : Params} {a : Nat} (h : busOk p a = true) : a < 2 ^ 32 := by
  simp only [busOk, Bool.and_eq_true, decide_eq_true_eq] at h
  exact h.1.1

theorem below_scrambleBytes {p : Params} {a d n : Nat} {m : List Host.Cell} (h : Memory.below (2 ^ 32) m = true) :
    Memory.below (2 ^ 32) (scrambleBytes p m a d n) = true := by
  induction n generalizing m a d with
  | zero => exact h
  | succ n ih =>
    simp only [scrambleBytes]
    split
    · rename_i hok
      exact ih (below_writeByte h (busOk_lt hok))
    · exact ih h

/-- A range is admitted exactly when each of its bytes is. -/
theorem rangeOk_iff {p : Params} {a n : Nat} :
    rangeOk p a n = true ↔ ∀ b, a ≤ b → b < a + n → busOk p b = true := by
  induction n generalizing a with
  | zero => simp [rangeOk]; omega
  | succ n ih =>
    simp only [rangeOk, Bool.and_eq_true, ih]
    constructor
    · rintro ⟨h1, h2⟩ b hb hb'
      rcases Nat.eq_or_lt_of_le hb with rfl | hlt
      · exact h1
      · exact h2 b (by omega) (by omega)
    · intro h
      exact ⟨h a (by omega) (by omega), fun b h1 h2 => h b (by omega) (by omega)⟩

theorem rangeOk_end_le {p : Params} {a n : Nat} (h : rangeOk p a n = true) (hn : 0 < n) : a + n ≤ 2 ^ 32 := by
  have := busOk_lt (rangeOk_iff.1 h (a + n - 1) (by omega) (by omega))
  omega

/-- What a `MemRead` can answer. -/
theorem memRead_eq_some {s : State} {a n : Nat} {v : Bytes} :
    memRead s a n = some v ↔ rangeOk s.params a n = true ∧ v = readBytes s.mem a n := by
  unfold memRead
  split
  · rename_i h
    exact ⟨fun he => ⟨h, (Option.some.inj he).symm⟩, fun he => by rw [he.2]⟩
  · rename_i h
    exact ⟨fun he => (nomatch he), fun he => absurd he.1 h⟩

theorem memRead_eq_none {s : State} {a n : Nat} : memRead s a n = none ↔ rangeOk s.params a n = false := by
  unfold memRead
  split
  · rename_i h
    exact ⟨fun he => (nomatch he), fun he => by simp [h] at he⟩
  · rename_i h
    exact ⟨fun _ => by simpa using h, fun _ => rfl⟩

theorem memRead_length {s : State} {a n : Nat} {v : Bytes} (h : memRead s a n = some v) : v.length = n := by
  rw [(memRead_eq_some.1 h).2, length_readBytes]

end Sys2Proof.Machine
end

