-- ==== Sys2Proof/Laws/State.lean ====
section
/-! SUPPORT. One lemma per field of State per named update, each true by rfl: no later proof unfolds a record update. -/

namespace Sys2Proof.Machine

variable (s : State)

@[simp] theorem setSlot_params (n : Nat) (v : Slot) : (s.setSlot n v).params = s.params := rfl
@[simp] theorem setSlot_status (n : Nat) (v : Slot) : (s.setSlot n v).status = s.status := rfl
@[simp] theorem setSlot_event (n : Nat) (v : Slot) : (s.setSlot n v).event = s.event := rfl
@[simp] theorem setSlot_irqEn (n : Nat) (v : Slot) : (s.setSlot n v).irqEn = s.irqEn := rfl
@[simp] theorem setSlot_args (n : Nat) (v : Slot) : (s.setSlot n v).args = s.args := rfl
@[simp] theorem setSlot_cvSel (n : Nat) (v : Slot) : (s.setSlot n v).cvSel = s.cvSel := rfl
@[simp] theorem setSlot_slots (n : Nat) (v : Slot) : (s.setSlot n v).slots = s.slots.set n v := rfl
@[simp] theorem setSlot_latch (n : Nat) (v : Slot) : (s.setSlot n v).latch = s.latch := rfl
@[simp] theorem setSlot_phase (n : Nat) (v : Slot) : (s.setSlot n v).phase = s.phase := rfl
@[simp] theorem setSlot_keybuf (n : Nat) (v : Slot) : (s.setSlot n v).keybuf = s.keybuf := rfl
@[simp] theorem setSlot_ivbuf (n : Nat) (v : Slot) : (s.setSlot n v).ivbuf = s.ivbuf := rfl
@[simp] theorem setSlot_mem (n : Nat) (v : Slot) : (s.setSlot n v).mem = s.mem := rfl
@[simp] theorem setSlot_inputs (n : Nat) (v : Slot) : (s.setSlot n v).inputs = s.inputs := rfl
@[simp] theorem setSlot_resp (n : Nat) (v : Slot) : (s.setSlot n v).resp = s.resp := rfl
@[simp] theorem setSlot_calls (n : Nat) (v : Slot) : (s.setSlot n v).calls = s.calls := rfl
@[simp] theorem setSlot_draws (n : Nat) (v : Slot) : (s.setSlot n v).draws = s.draws := rfl

@[simp] theorem store_params (a : Nat) (v : Bytes) : (s.store a v).params = s.params := rfl
@[simp] theorem store_status (a : Nat) (v : Bytes) : (s.store a v).status = s.status := rfl
@[simp] theorem store_event (a : Nat) (v : Bytes) : (s.store a v).event = s.event := rfl
@[simp] theorem store_irqEn (a : Nat) (v : Bytes) : (s.store a v).irqEn = s.irqEn := rfl
@[simp] theorem store_args (a : Nat) (v : Bytes) : (s.store a v).args = s.args := rfl
@[simp] theorem store_cvSel (a : Nat) (v : Bytes) : (s.store a v).cvSel = s.cvSel := rfl
@[simp] theorem store_slots (a : Nat) (v : Bytes) : (s.store a v).slots = s.slots := rfl
@[simp] theorem store_latch (a : Nat) (v : Bytes) : (s.store a v).latch = s.latch := rfl
@[simp] theorem store_phase (a : Nat) (v : Bytes) : (s.store a v).phase = s.phase := rfl
@[simp] theorem store_keybuf (a : Nat) (v : Bytes) : (s.store a v).keybuf = s.keybuf := rfl
@[simp] theorem store_ivbuf (a : Nat) (v : Bytes) : (s.store a v).ivbuf = s.ivbuf := rfl
@[simp] theorem store_mem (a : Nat) (v : Bytes) : (s.store a v).mem = writeBytes s.mem a v := rfl
@[simp] theorem store_inputs (a : Nat) (v : Bytes) : (s.store a v).inputs = s.inputs := rfl
@[simp] theorem store_resp (a : Nat) (v : Bytes) : (s.store a v).resp = s.resp := rfl
@[simp] theorem store_calls (a : Nat) (v : Bytes) : (s.store a v).calls = s.calls := rfl
@[simp] theorem store_draws (a : Nat) (v : Bytes) : (s.store a v).draws = s.draws := rfl

@[simp] theorem scramble_params (a n : Nat) : (s.scramble a n).params = s.params := rfl
@[simp] theorem scramble_status (a n : Nat) : (s.scramble a n).status = s.status := rfl
@[simp] theorem scramble_event (a n : Nat) : (s.scramble a n).event = s.event := rfl
@[simp] theorem scramble_irqEn (a n : Nat) : (s.scramble a n).irqEn = s.irqEn := rfl
@[simp] theorem scramble_args (a n : Nat) : (s.scramble a n).args = s.args := rfl
@[simp] theorem scramble_cvSel (a n : Nat) : (s.scramble a n).cvSel = s.cvSel := rfl
@[simp] theorem scramble_slots (a n : Nat) : (s.scramble a n).slots = s.slots := rfl
@[simp] theorem scramble_latch (a n : Nat) : (s.scramble a n).latch = s.latch := rfl
@[simp] theorem scramble_phase (a n : Nat) : (s.scramble a n).phase = s.phase := rfl
@[simp] theorem scramble_keybuf (a n : Nat) : (s.scramble a n).keybuf = s.keybuf := rfl
@[simp] theorem scramble_ivbuf (a n : Nat) : (s.scramble a n).ivbuf = s.ivbuf := rfl
@[simp] theorem scramble_mem (a n : Nat) : (s.scramble a n).mem = scrambleBytes s.params s.mem a s.draws n := rfl
@[simp] theorem scramble_inputs (a n : Nat) : (s.scramble a n).inputs = s.inputs := rfl
@[simp] theorem scramble_resp (a n : Nat) : (s.scramble a n).resp = s.resp := rfl
@[simp] theorem scramble_calls (a n : Nat) : (s.scramble a n).calls = s.calls := rfl
@[simp] theorem scramble_draws (a n : Nat) : (s.scramble a n).draws = s.draws + n := rfl

@[simp] theorem countCall_params : s.countCall.params = s.params := rfl
@[simp] theorem countCall_status : s.countCall.status = s.status := rfl
@[simp] theorem countCall_event : s.countCall.event = s.event := rfl
@[simp] theorem countCall_irqEn : s.countCall.irqEn = s.irqEn := rfl
@[simp] theorem countCall_args : s.countCall.args = s.args := rfl
@[simp] theorem countCall_cvSel : s.countCall.cvSel = s.cvSel := rfl
@[simp] theorem countCall_slots : s.countCall.slots = s.slots := rfl
@[simp] theorem countCall_latch : s.countCall.latch = s.latch := rfl
@[simp] theorem countCall_phase : s.countCall.phase = s.phase := rfl
@[simp] theorem countCall_keybuf : s.countCall.keybuf = s.keybuf := rfl
@[simp] theorem countCall_ivbuf : s.countCall.ivbuf = s.ivbuf := rfl
@[simp] theorem countCall_mem : s.countCall.mem = s.mem := rfl
@[simp] theorem countCall_inputs : s.countCall.inputs = s.inputs := rfl
@[simp] theorem countCall_resp : s.countCall.resp = s.resp := rfl
@[simp] theorem countCall_calls : s.countCall.calls = s.calls + 1 := rfl
@[simp] theorem countCall_draws : s.countCall.draws = s.draws := rfl

@[simp] theorem accept_params (w : Word) : (s.accept w).params = s.params := rfl
@[simp] theorem accept_status (w : Word) : (s.accept w).status = { s.status with busy := true } := rfl
@[simp] theorem accept_event (w : Word) : (s.accept w).event = s.event := rfl
@[simp] theorem accept_irqEn (w : Word) : (s.accept w).irqEn = s.irqEn := rfl
@[simp] theorem accept_args (w : Word) : (s.accept w).args = s.args := rfl
@[simp] theorem accept_cvSel (w : Word) : (s.accept w).cvSel = s.cvSel := rfl
@[simp] theorem accept_slots (w : Word) : (s.accept w).slots = s.slots := rfl
@[simp] theorem accept_latch (w : Word) : (s.accept w).latch = ⟨w, s.args, 0, 0⟩ := rfl
@[simp] theorem accept_phase (w : Word) : (s.accept w).phase = .check := rfl
@[simp] theorem accept_keybuf (w : Word) : (s.accept w).keybuf = s.keybuf := rfl
@[simp] theorem accept_ivbuf (w : Word) : (s.accept w).ivbuf = s.ivbuf := rfl
@[simp] theorem accept_mem (w : Word) : (s.accept w).mem = s.mem := rfl
@[simp] theorem accept_inputs (w : Word) : (s.accept w).inputs = s.inputs := rfl
@[simp] theorem accept_resp (w : Word) : (s.accept w).resp = s.resp := rfl
@[simp] theorem accept_calls (w : Word) : (s.accept w).calls = s.calls := rfl
@[simp] theorem accept_draws (w : Word) : (s.accept w).draws = s.draws := rfl

@[simp] theorem noteOverrun_params : s.noteOverrun.params = s.params := rfl
@[simp] theorem noteOverrun_status : s.noteOverrun.status = s.status := rfl
@[simp] theorem noteOverrun_event : s.noteOverrun.event = { s.event with overrun := true } := rfl
@[simp] theorem noteOverrun_irqEn : s.noteOverrun.irqEn = s.irqEn := rfl
@[simp] theorem noteOverrun_args : s.noteOverrun.args = s.args := rfl
@[simp] theorem noteOverrun_cvSel : s.noteOverrun.cvSel = s.cvSel := rfl
@[simp] theorem noteOverrun_slots : s.noteOverrun.slots = s.slots := rfl
@[simp] theorem noteOverrun_latch : s.noteOverrun.latch = s.latch := rfl
@[simp] theorem noteOverrun_phase : s.noteOverrun.phase = s.phase := rfl
@[simp] theorem noteOverrun_keybuf : s.noteOverrun.keybuf = s.keybuf := rfl
@[simp] theorem noteOverrun_ivbuf : s.noteOverrun.ivbuf = s.ivbuf := rfl
@[simp] theorem noteOverrun_mem : s.noteOverrun.mem = s.mem := rfl
@[simp] theorem noteOverrun_inputs : s.noteOverrun.inputs = s.inputs := rfl
@[simp] theorem noteOverrun_resp : s.noteOverrun.resp = s.resp := rfl
@[simp] theorem noteOverrun_calls : s.noteOverrun.calls = s.calls := rfl
@[simp] theorem noteOverrun_draws : s.noteOverrun.draws = s.draws := rfl

@[simp] theorem complete_params (r : ResultCode) (c : CauseCode) : (s.complete r c).params = s.params := rfl
@[simp] theorem complete_status (r : ResultCode) (c : CauseCode) :
    (s.complete r c).status =
      { s.status with result := r, cause := c, busy := false } := rfl
@[simp] theorem complete_event (r : ResultCode) (c : CauseCode) :
    (s.complete r c).event =
      { s.event with done := true } := rfl
@[simp] theorem complete_irqEn (r : ResultCode) (c : CauseCode) : (s.complete r c).irqEn = s.irqEn := rfl
@[simp] theorem complete_args (r : ResultCode) (c : CauseCode) : (s.complete r c).args = s.args := rfl
@[simp] theorem complete_cvSel (r : ResultCode) (c : CauseCode) : (s.complete r c).cvSel = s.cvSel := rfl
@[simp] theorem complete_slots (r : ResultCode) (c : CauseCode) : (s.complete r c).slots = s.slots := rfl
@[simp] theorem complete_latch (r : ResultCode) (c : CauseCode) : (s.complete r c).latch = Latch.zero := rfl
@[simp] theorem complete_phase (r : ResultCode) (c : CauseCode) : (s.complete r c).phase = .idle := rfl
@[simp] theorem complete_keybuf (r : ResultCode) (c : CauseCode) :
    (s.complete r c).keybuf =
      zeros s.params.keyBytes := rfl
@[simp] theorem complete_ivbuf (r : ResultCode) (c : CauseCode) :
    (s.complete r c).ivbuf =
      zeros s.params.blockBytes := rfl
@[simp] theorem complete_mem (r : ResultCode) (c : CauseCode) : (s.complete r c).mem = s.mem := rfl
@[simp] theorem complete_inputs (r : ResultCode) (c : CauseCode) : (s.complete r c).inputs = s.inputs := rfl
@[simp] theorem complete_resp (r : ResultCode) (c : CauseCode) : (s.complete r c).resp = s.resp := rfl
@[simp] theorem complete_calls (r : ResultCode) (c : CauseCode) : (s.complete r c).calls = s.calls := rfl
@[simp] theorem complete_draws (r : ResultCode) (c : CauseCode) : (s.complete r c).draws = s.draws := rfl

@[simp] theorem fail_params (n : Nat) (c : CauseCode) : (s.fail n c).params = s.params := rfl
@[simp] theorem fail_status (n : Nat) (c : CauseCode) :
    (s.fail n c).status =
      { s.status with result := .badState, cause := c, busy := false } := rfl
@[simp] theorem fail_event (n : Nat) (c : CauseCode) : (s.fail n c).event = { s.event with done := true } := rfl
@[simp] theorem fail_irqEn (n : Nat) (c : CauseCode) : (s.fail n c).irqEn = s.irqEn := rfl
@[simp] theorem fail_args (n : Nat) (c : CauseCode) : (s.fail n c).args = s.args := rfl
@[simp] theorem fail_cvSel (n : Nat) (c : CauseCode) : (s.fail n c).cvSel = s.cvSel := rfl
@[simp] theorem fail_slots (n : Nat) (c : CauseCode) : (s.fail n c).slots = s.slots.set n (s.slot n).failedKeep := rfl
@[simp] theorem fail_latch (n : Nat) (c : CauseCode) : (s.fail n c).latch = Latch.zero := rfl
@[simp] theorem fail_phase (n : Nat) (c : CauseCode) : (s.fail n c).phase = .idle := rfl
@[simp] theorem fail_keybuf (n : Nat) (c : CauseCode) : (s.fail n c).keybuf = zeros s.params.keyBytes := rfl
@[simp] theorem fail_ivbuf (n : Nat) (c : CauseCode) : (s.fail n c).ivbuf = zeros s.params.blockBytes := rfl
@[simp] theorem fail_mem (n : Nat) (c : CauseCode) : (s.fail n c).mem = s.mem := rfl
@[simp] theorem fail_inputs (n : Nat) (c : CauseCode) : (s.fail n c).inputs = s.inputs := rfl
@[simp] theorem fail_resp (n : Nat) (c : CauseCode) : (s.fail n c).resp = s.resp := rfl
@[simp] theorem fail_calls (n : Nat) (c : CauseCode) : (s.fail n c).calls = s.calls := rfl
@[simp] theorem fail_draws (n : Nat) (c : CauseCode) : (s.fail n c).draws = s.draws := rfl

@[simp] theorem enter_params (ph : Phase) : (s.enter ph).params = s.params := rfl
@[simp] theorem enter_status (ph : Phase) : (s.enter ph).status = s.status := rfl
@[simp] theorem enter_event (ph : Phase) : (s.enter ph).event = s.event := rfl
@[simp] theorem enter_irqEn (ph : Phase) : (s.enter ph).irqEn = s.irqEn := rfl
@[simp] theorem enter_args (ph : Phase) : (s.enter ph).args = s.args := rfl
@[simp] theorem enter_cvSel (ph : Phase) : (s.enter ph).cvSel = s.cvSel := rfl
@[simp] theorem enter_slots (ph : Phase) : (s.enter ph).slots = s.slots := rfl
@[simp] theorem enter_latch (ph : Phase) : (s.enter ph).latch = s.latch := rfl
@[simp] theorem enter_phase (ph : Phase) : (s.enter ph).phase = ph := rfl
@[simp] theorem enter_keybuf (ph : Phase) : (s.enter ph).keybuf = s.keybuf := rfl
@[simp] theorem enter_ivbuf (ph : Phase) : (s.enter ph).ivbuf = s.ivbuf := rfl
@[simp] theorem enter_mem (ph : Phase) : (s.enter ph).mem = s.mem := rfl
@[simp] theorem enter_inputs (ph : Phase) : (s.enter ph).inputs = s.inputs := rfl
@[simp] theorem enter_resp (ph : Phase) : (s.enter ph).resp = s.resp := rfl
@[simp] theorem enter_calls (ph : Phase) : (s.enter ph).calls = s.calls := rfl
@[simp] theorem enter_draws (ph : Phase) : (s.enter ph).draws = s.draws := rfl

@[simp] theorem setBlockCount_params : s.setBlockCount.params = s.params := rfl
@[simp] theorem setBlockCount_status : s.setBlockCount.status = s.status := rfl
@[simp] theorem setBlockCount_event : s.setBlockCount.event = s.event := rfl
@[simp] theorem setBlockCount_irqEn : s.setBlockCount.irqEn = s.irqEn := rfl
@[simp] theorem setBlockCount_args : s.setBlockCount.args = s.args := rfl
@[simp] theorem setBlockCount_cvSel : s.setBlockCount.cvSel = s.cvSel := rfl
@[simp] theorem setBlockCount_slots : s.setBlockCount.slots = s.slots := rfl
@[simp] theorem setBlockCount_latch :
    s.setBlockCount.latch =
      { s.latch with nblk := s.lLen / s.params.blockBytes } := rfl
@[simp] theorem setBlockCount_phase : s.setBlockCount.phase = s.phase := rfl
@[simp] theorem setBlockCount_keybuf : s.setBlockCount.keybuf = s.keybuf := rfl
@[simp] theorem setBlockCount_ivbuf : s.setBlockCount.ivbuf = s.ivbuf := rfl
@[simp] theorem setBlockCount_mem : s.setBlockCount.mem = s.mem := rfl
@[simp] theorem setBlockCount_inputs : s.setBlockCount.inputs = s.inputs := rfl
@[simp] theorem setBlockCount_resp : s.setBlockCount.resp = s.resp := rfl
@[simp] theorem setBlockCount_calls : s.setBlockCount.calls = s.calls := rfl
@[simp] theorem setBlockCount_draws : s.setBlockCount.draws = s.draws := rfl

@[simp] theorem countBlock_params : s.countBlock.params = s.params := rfl
@[simp] theorem countBlock_status : s.countBlock.status = s.status := rfl
@[simp] theorem countBlock_event : s.countBlock.event = s.event := rfl
@[simp] theorem countBlock_irqEn : s.countBlock.irqEn = s.irqEn := rfl
@[simp] theorem countBlock_args : s.countBlock.args = s.args := rfl
@[simp] theorem countBlock_cvSel : s.countBlock.cvSel = s.cvSel := rfl
@[simp] theorem countBlock_slots : s.countBlock.slots = s.slots := rfl
@[simp] theorem countBlock_latch : s.countBlock.latch = { s.latch with i := s.latch.i + 1 } := rfl
@[simp] theorem countBlock_phase : s.countBlock.phase = s.phase := rfl
@[simp] theorem countBlock_keybuf : s.countBlock.keybuf = s.keybuf := rfl
@[simp] theorem countBlock_ivbuf : s.countBlock.ivbuf = s.ivbuf := rfl
@[simp] theorem countBlock_mem : s.countBlock.mem = s.mem := rfl
@[simp] theorem countBlock_inputs : s.countBlock.inputs = s.inputs := rfl
@[simp] theorem countBlock_resp : s.countBlock.resp = s.resp := rfl
@[simp] theorem countBlock_calls : s.countBlock.calls = s.calls := rfl
@[simp] theorem countBlock_draws : s.countBlock.draws = s.draws := rfl

@[simp] theorem setResultSlot_params (n : Nat) : (s.setResultSlot n).params = s.params := rfl
@[simp] theorem setResultSlot_status (n : Nat) :
    (s.setResultSlot n).status =
      { s.status with resultSlot := BitVec.ofNat 4 n } := rfl
@[simp] theorem setResultSlot_event (n : Nat) : (s.setResultSlot n).event = s.event := rfl
@[simp] theorem setResultSlot_irqEn (n : Nat) : (s.setResultSlot n).irqEn = s.irqEn := rfl
@[simp] theorem setResultSlot_args (n : Nat) : (s.setResultSlot n).args = s.args := rfl
@[simp] theorem setResultSlot_cvSel (n : Nat) : (s.setResultSlot n).cvSel = s.cvSel := rfl
@[simp] theorem setResultSlot_slots (n : Nat) : (s.setResultSlot n).slots = s.slots := rfl
@[simp] theorem setResultSlot_latch (n : Nat) : (s.setResultSlot n).latch = s.latch := rfl
@[simp] theorem setResultSlot_phase (n : Nat) : (s.setResultSlot n).phase = s.phase := rfl
@[simp] theorem setResultSlot_keybuf (n : Nat) : (s.setResultSlot n).keybuf = s.keybuf := rfl
@[simp] theorem setResultSlot_ivbuf (n : Nat) : (s.setResultSlot n).ivbuf = s.ivbuf := rfl
@[simp] theorem setResultSlot_mem (n : Nat) : (s.setResultSlot n).mem = s.mem := rfl
@[simp] theorem setResultSlot_inputs (n : Nat) : (s.setResultSlot n).inputs = s.inputs := rfl
@[simp] theorem setResultSlot_resp (n : Nat) : (s.setResultSlot n).resp = s.resp := rfl
@[simp] theorem setResultSlot_calls (n : Nat) : (s.setResultSlot n).calls = s.calls := rfl
@[simp] theorem setResultSlot_draws (n : Nat) : (s.setResultSlot n).draws = s.draws := rfl

@[simp] theorem loadBuffers_params (iv key : Bytes) : (s.loadBuffers iv key).params = s.params := rfl
@[simp] theorem loadBuffers_status (iv key : Bytes) : (s.loadBuffers iv key).status = s.status := rfl
@[simp] theorem loadBuffers_event (iv key : Bytes) : (s.loadBuffers iv key).event = s.event := rfl
@[simp] theorem loadBuffers_irqEn (iv key : Bytes) : (s.loadBuffers iv key).irqEn = s.irqEn := rfl
@[simp] theorem loadBuffers_args (iv key : Bytes) : (s.loadBuffers iv key).args = s.args := rfl
@[simp] theorem loadBuffers_cvSel (iv key : Bytes) : (s.loadBuffers iv key).cvSel = s.cvSel := rfl
@[simp] theorem loadBuffers_slots (iv key : Bytes) : (s.loadBuffers iv key).slots = s.slots := rfl
@[simp] theorem loadBuffers_latch (iv key : Bytes) : (s.loadBuffers iv key).latch = s.latch := rfl
@[simp] theorem loadBuffers_phase (iv key : Bytes) : (s.loadBuffers iv key).phase = s.phase := rfl
@[simp] theorem loadBuffers_keybuf (iv key : Bytes) : (s.loadBuffers iv key).keybuf = key := rfl
@[simp] theorem loadBuffers_ivbuf (iv key : Bytes) : (s.loadBuffers iv key).ivbuf = iv := rfl
@[simp] theorem loadBuffers_mem (iv key : Bytes) : (s.loadBuffers iv key).mem = s.mem := rfl
@[simp] theorem loadBuffers_inputs (iv key : Bytes) : (s.loadBuffers iv key).inputs = s.inputs := rfl
@[simp] theorem loadBuffers_resp (iv key : Bytes) : (s.loadBuffers iv key).resp = s.resp := rfl
@[simp] theorem loadBuffers_calls (iv key : Bytes) : (s.loadBuffers iv key).calls = s.calls := rfl
@[simp] theorem loadBuffers_draws (iv key : Bytes) : (s.loadBuffers iv key).draws = s.draws := rfl

@[simp] theorem respond_params (r : Response) : (s.respond r).params = s.params := rfl
@[simp] theorem respond_status (r : Response) : (s.respond r).status = s.status := rfl
@[simp] theorem respond_event (r : Response) : (s.respond r).event = s.event := rfl
@[simp] theorem respond_irqEn (r : Response) : (s.respond r).irqEn = s.irqEn := rfl
@[simp] theorem respond_args (r : Response) : (s.respond r).args = s.args := rfl
@[simp] theorem respond_cvSel (r : Response) : (s.respond r).cvSel = s.cvSel := rfl
@[simp] theorem respond_slots (r : Response) : (s.respond r).slots = s.slots := rfl
@[simp] theorem respond_latch (r : Response) : (s.respond r).latch = s.latch := rfl
@[simp] theorem respond_phase (r : Response) : (s.respond r).phase = s.phase := rfl
@[simp] theorem respond_keybuf (r : Response) : (s.respond r).keybuf = s.keybuf := rfl
@[simp] theorem respond_ivbuf (r : Response) : (s.respond r).ivbuf = s.ivbuf := rfl
@[simp] theorem respond_mem (r : Response) : (s.respond r).mem = s.mem := rfl
@[simp] theorem respond_inputs (r : Response) : (s.respond r).inputs = s.inputs := rfl
@[simp] theorem respond_resp (r : Response) : (s.respond r).resp = r := rfl
@[simp] theorem respond_calls (r : Response) : (s.respond r).calls = s.calls := rfl
@[simp] theorem respond_draws (r : Response) :
    (s.respond r).draws =
      if s.status.busy then s.draws + 1 else s.draws := rfl

/-- Reading a slot just written. -/
theorem slot_setSlot_same {n : Nat} (v : Slot) (h : n < s.slots.length) : (s.setSlot n v).slot n = v := by
  simp [State.slot, h]

/-- Reading another slot than the one written. -/
theorem slot_setSlot_other {n m : Nat} (v : Slot) (h : n ≠ m) : (s.setSlot n v).slot m = s.slot m := by
  simp [State.slot, List.getElem?_set_ne h]

/-- A slot depends on the slot file and on B alone. -/
theorem slot_congr {s t : State} (n : Nat) (h : t.slots = s.slots) (hp : t.params = s.params) : t.slot n = s.slot n := by
  simp [State.slot, h, hp]

@[simp] theorem slot_complete (r : ResultCode) (c : CauseCode) (n : Nat) : (s.complete r c).slot n = s.slot n := rfl
@[simp] theorem slot_countCall (n : Nat) : s.countCall.slot n = s.slot n := rfl
@[simp] theorem slot_store (a : Nat) (v : Bytes) (n : Nat) : (s.store a v).slot n = s.slot n := rfl
@[simp] theorem slot_scramble (a k n : Nat) : (s.scramble a k).slot n = s.slot n := rfl
@[simp] theorem slot_enter (ph : Phase) (n : Nat) : (s.enter ph).slot n = s.slot n := rfl
@[simp] theorem slot_accept (w : Word) (n : Nat) : (s.accept w).slot n = s.slot n := rfl
@[simp] theorem slot_countBlock (n : Nat) : s.countBlock.slot n = s.slot n := rfl
@[simp] theorem slot_setBlockCount (n : Nat) : s.setBlockCount.slot n = s.slot n := rfl
@[simp] theorem slot_setResultSlot (k n : Nat) : (s.setResultSlot k).slot n = s.slot n := rfl
@[simp] theorem slot_loadBuffers (iv key : Bytes) (n : Nat) : (s.loadBuffers iv key).slot n = s.slot n := rfl
@[simp] theorem slot_respond (r : Response) (n : Nat) : (s.respond r).slot n = s.slot n := rfl

@[simp] theorem setSlot_length (n : Nat) (v : Slot) : (s.setSlot n v).slots.length = s.slots.length := by simp

/-- A slot of the file is one of its entries. -/
theorem slot_mem {n : Nat} (h : n < s.slots.length) : s.slot n ∈ s.slots := by
  simp [State.slot, h]

end Sys2Proof.Machine
end

