-- ==== Sys2Proof/Laws/Ops.lean ====
section
/-! SUPPORT. One lemma per shared operation and per command that says everything it can do. -/

namespace Sys2Proof.Machine

theorem firstFailure_eq_some {rows : List CheckRow} {r : CheckRow} (h : firstFailure rows = some r) :
    r ∈ rows ∧ r.fails = true := by
  induction rows with
  | nil => exact (nomatch h)
  | cons q rest ih =>
    unfold firstFailure at h
    split at h
    · rename_i hq
      cases h
      exact ⟨List.mem_cons_self, hq⟩
    · exact ⟨List.mem_cons_of_mem _ (ih h).1, (ih h).2⟩

theorem firstFailure_eq_none {rows : List CheckRow} :
    firstFailure rows = none ↔ ∀ r ∈ rows, r.fails = false := by
  induction rows with
  | nil => simp [firstFailure]
  | cons q rest ih =>
    unfold firstFailure
    split
    · rename_i hq
      simp [hq]
    · rename_i hq
      simp [ih, hq]

/-- A CHECK step: completion by a failing row, or the effect with no row failing. -/
theorem runChecks_cases (rows : List CheckRow) (effect : State → State) (s : State) :
    (∃ r ∈ rows, r.fails = true ∧ runChecks rows effect s = s.complete r.result r.cause) ∨
    ((∀ r ∈ rows, r.fails = false) ∧ runChecks rows effect s = effect s) := by
  unfold runChecks
  split
  · rename_i r h
    obtain ⟨hm, hf⟩ := firstFailure_eq_some h
    exact .inl ⟨r, hm, hf, rfl⟩
  · rename_i h
    exact .inr ⟨firstFailure_eq_none.1 h, rfl⟩

theorem runChecks_pass {rows : List CheckRow} {s : State} (effect : State → State)
    (h : ∀ r ∈ rows, r.fails = false) : runChecks rows effect s = effect s := by
  unfold runChecks
  rw [firstFailure_eq_none.2 h]

theorem permits_init {st : SlotState} : initPermits st = true ↔ st = .allocated := by cases st <;> simp [initPermits]
theorem permits_update {st : SlotState} : updatePermits st = true ↔ st = .ready := by cases st <;> simp [updatePermits]
theorem permits_final {st : SlotState} : finalPermits st = true ↔ st = .ready := by cases st <;> simp [finalPermits]
theorem permits_free {st : SlotState} : freePermits st = true ↔ st ≠ .free := by cases st <;> simp [freePermits]
theorem permits_copySource {st : SlotState} : copySourcePermits st = true ↔ st = .ready := by
  cases st <;> simp [copySourcePermits]
theorem permits_copyDest {st : SlotState} :
    copyDestPermits st = true ↔ st = .allocated ∨ st = .ready ∨ st = .finalized := by
  cases st <;> simp [copyDestPermits]

/-- INIT's checks pass exactly under its conditions. -/
theorem initChecks_pass {n : Nat} {s : State} :
    (∀ r ∈ initChecks n s, r.fails = false) ↔ s.InitReady n := by
  simp only [initChecks, slotRangeRow, seqRow, List.mem_cons, List.not_mem_nil, or_false, forall_eq_or_imp,
    forall_eq, decide_eq_false_iff_not, Bool.not_eq_false', permits_init, not_not]
  constructor
  · rintro ⟨h1, h2, h3, h4, h5⟩
    exact ⟨by omega, h2, h3, h4, by omega, by omega⟩
  · rintro ⟨h1, h2, h3, h4, h5, h6⟩
    exact ⟨by omega, h2, h3, h4, by omega⟩

/-- UPDATE's checks pass exactly under its conditions. -/
theorem updateChecks_pass {n : Nat} {s : State} :
    (∀ r ∈ updateChecks n s, r.fails = false) ↔ s.UpdateReady n := by
  simp only [updateChecks, slotRangeRow, seqRow, List.mem_cons, List.not_mem_nil, or_false, forall_eq_or_imp,
    forall_eq, decide_eq_false_iff_not, Bool.not_eq_false', permits_update, not_not]
  constructor
  · rintro ⟨h1, h2, h3, h4⟩
    exact ⟨by omega, h2, h3, by omega, by omega⟩
  · rintro ⟨h1, h2, h3, h4, h5⟩
    exact ⟨by omega, h2, h3, by omega⟩

theorem finalChecks_pass {n : Nat} {s : State} :
    (∀ r ∈ finalChecks n s, r.fails = false) ↔ n < s.params.numSlots ∧ (s.slot n).state = .ready := by
  simp [finalChecks, slotRangeRow, seqRow, permits_final]

theorem freeChecks_pass {n : Nat} {s : State} :
    (∀ r ∈ freeChecks n s, r.fails = false) ↔ n < s.params.numSlots ∧ (s.slot n).state ≠ .free := by
  simp [freeChecks, slotRangeRow, seqRow, permits_free]

theorem copyChecks_pass {t r : Nat} {s : State} :
    (∀ q ∈ copyChecks t r s, q.fails = false) ↔
      t < s.params.numSlots ∧ r < s.params.numSlots ∧ (s.slot r).state = .ready ∧
      ((s.slot t).state = .allocated ∨ (s.slot t).state = .ready ∨ (s.slot t).state = .finalized) := by
  simp [copyChecks, slotRangeRow, seqRow, permits_copySource, permits_copyDest]

/-- The least FREE slot: in range, FREE, and none below it FREE. -/
theorem firstFree_eq_some {s : State} {n : Nat} :
    s.firstFree = some n ↔
      n < s.slots.length ∧ (s.slot n).state = .free ∧ ∀ m < n, (s.slot m).state ≠ .free := by
  unfold State.firstFree
  rw [List.findIdx?_eq_some_iff_getElem]
  constructor
  · rintro ⟨h, h1, h2⟩
    refine ⟨h, by simpa [State.slot, h] using h1, fun m hm => ?_⟩
    have := h2 m hm
    have hm' : m < s.slots.length := by omega
    simpa [State.slot, hm'] using this
  · rintro ⟨h, h1, h2⟩
    refine ⟨h, by simpa [State.slot, h] using h1, fun m hm => ?_⟩
    have hm' : m < s.slots.length := by omega
    have := h2 m hm
    simpa [State.slot, hm'] using this

theorem firstFree_eq_none {s : State} :
    s.firstFree = none ↔ ∀ n < s.slots.length, (s.slot n).state ≠ .free := by
  unfold State.firstFree
  rw [List.findIdx?_eq_none_iff]
  constructor
  · intro h n hn
    simpa using h _ (slot_mem s hn)
  · intro h t ht
    obtain ⟨n, hn, rfl⟩ := List.getElem_of_mem ht
    simpa [State.slot, hn] using h n hn

/-- What INIT's EXEC_INIT step can do (41_alloc_init.md R143, R148, R150). -/
theorem initExec_cases (n : Nat) (d : Dir) (s : State) :
    ((rangeOk s.params s.lIvAddr s.params.blockBytes = false ∨
        rangeOk s.params s.lKeyAddr s.params.keyBytes = false) ∧ initExec n d s = s.fail n .busError) ∨
    (rangeOk s.params s.lIvAddr s.params.blockBytes = true ∧
      rangeOk s.params s.lKeyAddr s.params.keyBytes = true ∧
      initExec n d s = expandAndCommit n d (loadIv n d
        (s.loadBuffers (readBytes s.mem s.lIvAddr s.params.blockBytes)
          (readBytes s.mem s.lKeyAddr s.params.keyBytes)))) := by
  unfold initExec memRead
  by_cases h1 : rangeOk s.params s.lIvAddr s.params.blockBytes = true
  · by_cases h2 : rangeOk s.params s.lKeyAddr s.params.keyBytes = true
    · right
      simp [h1, h2]
    · left
      simp only [Bool.not_eq_true] at h2
      simp [h1, h2]
  · left
    simp only [Bool.not_eq_true] at h1
    simp [h1]

/-- What the backend says to INIT: Error, or the key schedule (41_alloc_init.md R149, R150, R153). -/
theorem expandAndCommit_cases (n : Nat) (d : Dir) (s : State) :
    ((keyRejected s.params d s.keybuf = true ∨ s.nextCallFails = true) ∧
      expandAndCommit n d s = s.countCall.fail n .keyExpand) ∨
    (keyRejected s.params d s.keybuf = false ∧ s.nextCallFails = false ∧
      expandAndCommit n d s = (s.countCall.setSlot n
        { s.slot n with ks := backendExpand s.params d s.keybuf, state := .ready }).complete .success .none) := by
  unfold expandAndCommit State.expandFails
  cases keyRejected s.params d s.keybuf <;> cases s.nextCallFails <;> simp

/-- With BACKEND_MAY_FAIL false no key is rejected (60_exceptions.md R236). -/
theorem keyRejected_never {p : Params} (h : p.failures = .never) (d : Dir) (key : Bytes) :
    keyRejected p d key = false := by simp [keyRejected, h]

/-- The slot INIT is working on after its CV and DIR are loaded (41_alloc_init.md R143). -/
theorem slot_loadIv {n : Nat} (d : Dir) (iv key : Bytes) {s : State} (h : n < s.slots.length) :
    (loadIv n d (s.loadBuffers iv key)).slot n = { s.slot n with dir := d, cv := iv } := by
  unfold loadIv
  rw [slot_setSlot_same _ _ (by simpa using h)]
  rfl

theorem slots_loadIv (n : Nat) (d : Dir) (iv key : Bytes) (s : State) :
    (loadIv n d (s.loadBuffers iv key)).slots = s.slots.set n { s.slot n with dir := d, cv := iv } := rfl

/-- What the commit of a block can do (42_update.md R167, R168). -/
theorem commitBlock_cases (n : Nat) (out cv : Bytes) (s : State) :
    (rangeOk s.params s.blockOut s.params.blockBytes = true ∧
      commitBlock n out cv s = nextBlock (setCv n cv (s.store s.blockOut out))) ∨
    (rangeOk s.params s.blockOut s.params.blockBytes = false ∧
      commitBlock n out cv s = (s.scramble s.blockOut s.params.blockBytes).fail n .busError) := by
  unfold commitBlock
  split
  · rename_i h
    exact .inl ⟨h, rfl⟩
  · rename_i h
    exact .inr ⟨by simpa using h, rfl⟩

/-- The output block and the next chaining vector of one block step on input block `b` (42_update.md R161, R162). -/
def blockResult (p : Params) (t : Slot) (b : Bytes) : Bytes × Bytes :=
  match t.dir with
  | .enc => (backendEncrypt p t.ks (xorBytes b t.cv), backendEncrypt p t.ks (xorBytes b t.cv))
  | .dec => (xorBytes (backendDecrypt p t.ks b) t.cv, b)

/-- What an EXEC_BLOCK step can do: a bus error on the read, a backend failure, a bus error on the write, or the block
(42_update.md R161, R162, R168). -/
theorem blockStep_cases (n : Nat) (s : State) :
    (rangeOk s.params s.blockIn s.params.blockBytes = false ∧ blockStep n s = s.fail n .busError) ∨
    (rangeOk s.params s.blockIn s.params.blockBytes = true ∧ s.nextCallFails = true ∧
      blockStep n s = s.countCall.fail n .blockXform) ∨
    (rangeOk s.params s.blockIn s.params.blockBytes = true ∧ s.nextCallFails = false ∧
      rangeOk s.params s.blockOut s.params.blockBytes = false ∧
      blockStep n s = (s.countCall.scramble s.blockOut s.params.blockBytes).fail n .busError) ∨
    (rangeOk s.params s.blockIn s.params.blockBytes = true ∧ s.nextCallFails = false ∧
      rangeOk s.params s.blockOut s.params.blockBytes = true ∧
      blockStep n s = nextBlock (setCv n
        (blockResult s.params (s.slot n) (readBytes s.mem s.blockIn s.params.blockBytes)).2
        (s.countCall.store s.blockOut
          (blockResult s.params (s.slot n) (readBytes s.mem s.blockIn s.params.blockBytes)).1))) := by
  by_cases hin : rangeOk s.params s.blockIn s.params.blockBytes = true
  · by_cases hf : s.nextCallFails = true
    · right; left
      refine ⟨hin, hf, ?_⟩
      unfold blockStep encryptStep decryptStep memRead
      split <;> simp [hin, hf]
    · simp only [Bool.not_eq_true] at hf
      right; right
      have hb : blockStep n s = commitBlock n
          (blockResult s.params (s.slot n) (readBytes s.mem s.blockIn s.params.blockBytes)).1
          (blockResult s.params (s.slot n) (readBytes s.mem s.blockIn s.params.blockBytes)).2 s.countCall := by
        unfold blockStep encryptStep decryptStep memRead blockResult
        cases hd : (s.slot n).dir <;> simp [hin, hf]
      rw [hb]
      obtain ⟨h, he⟩ | ⟨h, he⟩ := commitBlock_cases n
          (blockResult s.params (s.slot n) (readBytes s.mem s.blockIn s.params.blockBytes)).1
          (blockResult s.params (s.slot n) (readBytes s.mem s.blockIn s.params.blockBytes)).2 s.countCall
      · exact .inr ⟨hin, hf, h, he⟩
      · exact .inl ⟨hin, hf, h, he⟩
  · left
    simp only [Bool.not_eq_true] at hin
    refine ⟨hin, ?_⟩
    unfold blockStep encryptStep decryptStep memRead
    split <;> simp [hin]

/-- The next block, or completion after the last one (42_update.md R160). -/
theorem nextBlock_cases (s : State) :
    (s.latch.i + 1 = s.latch.nblk ∧ nextBlock s = s.countBlock.complete .success .none) ∨
    (s.latch.i + 1 ≠ s.latch.nblk ∧ nextBlock s = s.countBlock) := by
  unfold nextBlock
  split
  · rename_i h
    exact .inl ⟨h, rfl⟩
  · rename_i h
    exact .inr ⟨h, rfl⟩

/-- No command's meaning ends in a fault or a refusal (60_exceptions.md R233). -/
theorem exec_next (i : Instr) (s : State) : ∃ t, exec i s = .next t := by
  cases i with
  | alloc => exact ⟨_, rfl⟩
  | init n d =>
    simp only [exec, execInit]
    split <;> exact ⟨_, rfl⟩
  | update n =>
    simp only [exec, execUpdate]
    split <;> exact ⟨_, rfl⟩
  | final n => exact ⟨_, rfl⟩
  | free n => exact ⟨_, rfl⟩
  | copy t r => exact ⟨_, rfl⟩

/-- What an engine step can do: nothing while idle, completion of an illegal word, or the decoded command's step. -/
theorem engineStep_cases (s : State) :
    ((s.status.busy = false ∨ s.phase = .idle) ∧ engineStep s = .next s) ∨
    (s.status.busy = true ∧ s.phase ≠ .idle ∧ (∃ e, decode s.latch.cmd = .error e) ∧
      engineStep s = .next (illegalCommand s)) ∨
    (s.status.busy = true ∧ s.phase ≠ .idle ∧ ∃ i, decode s.latch.cmd = .ok i ∧ engineStep s = exec i s) := by
  unfold engineStep
  split
  · rename_i h
    exact .inl ⟨h, rfl⟩
  · rename_i h
    simp only [not_or, Bool.not_eq_false] at h
    split
    · rename_i i hi
      exact .inr (.inr ⟨h.1, h.2, i, hi, rfl⟩)
    · rename_i e he
      exact .inr (.inl ⟨h.1, h.2, ⟨e, he⟩, rfl⟩)

theorem engineStep_next (s : State) : ∃ t, engineStep s = .next t := by
  obtain ⟨-, h⟩ | ⟨-, -, -, h⟩ | ⟨-, -, i, -, h⟩ := engineStep_cases s
  · exact ⟨_, h⟩
  · exact ⟨_, h⟩
  · rw [h]
    exact exec_next i s

/-- What a step of the machine can do, by the oldest pending input. -/
theorem step_cases {s t : State} (h : step s = .next t) :
    (s.inputs = [] ∧ engineStep s = .next t) ∨
    (∃ rest, s.inputs = .engine :: rest ∧ engineStep { s with inputs := rest } = .next t) ∨
    (∃ op rest, s.inputs = .host op :: rest ∧ hostStep op { s with inputs := rest } = .next t) ∨
    (∃ rest, s.inputs = .reset :: rest ∧ t = State.platformReset { s with inputs := rest }) := by
  unfold step at h
  split at h
  · rename_i hi
    exact .inl ⟨hi, h⟩
  · rename_i rest hi
    exact .inr (.inl ⟨rest, hi, h⟩)
  · rename_i op rest hi
    exact .inr (.inr (.inl ⟨op, rest, hi, h⟩))
  · rename_i rest hi
    cases h
    exact .inr (.inr (.inr ⟨rest, hi, rfl⟩))

/-- What a reset does to the block at hand: nothing, a backend call counted, or its destination bytes left open
(70_reset_and_hazards.md R272). -/
theorem abandonWrite_cases (s : State) :
    ((s.phase ≠ .execBlock ∨ rangeOk s.params s.blockIn s.params.blockBytes = false) ∧ s.abandonWrite = s) ∨
    (s.phase = .execBlock ∧ rangeOk s.params s.blockIn s.params.blockBytes = true ∧ s.nextCallFails = true ∧
      s.abandonWrite = s.countCall) ∨
    (s.phase = .execBlock ∧ rangeOk s.params s.blockIn s.params.blockBytes = true ∧ s.nextCallFails = false ∧
      s.abandonWrite = s.countCall.scramble s.blockOut s.params.blockBytes) := by
  unfold State.abandonWrite
  by_cases h1 : s.phase = .execBlock <;> cases h2 : rangeOk s.params s.blockIn s.params.blockBytes <;>
    cases h3 : s.nextCallFails <;> simp [h1]

theorem inFlight_update {s : State} {n : Nat} :
    s.inFlight = some (.update n) ↔ decode s.latch.cmd = .ok (.update n) := by
  unfold State.inFlight
  cases decode s.latch.cmd <;> simp [Except.toOption]

theorem inFlight_init {s : State} {n : Nat} {d : Dir} :
    s.inFlight = some (.init n d) ↔ decode s.latch.cmd = .ok (.init n d) := by
  unfold State.inFlight
  cases decode s.latch.cmd <;> simp [Except.toOption]

theorem meets_iff (r : Region) (a n : Nat) :
    Region.meets r a n = true ↔ ∃ b, a ≤ b ∧ b < a + n ∧ r.base ≤ b ∧ b < r.base + r.size := by
  simp only [Region.meets, Bool.and_eq_true, decide_eq_true_eq]
  constructor
  · rintro ⟨⟨⟨h1, h2⟩, h3⟩, h4⟩
    exact ⟨max a r.base, by omega, by omega, by omega, by omega⟩
  · rintro ⟨b, h⟩
    omega

/-- A host access races exactly where it touches a byte of the in-flight buffer set (20_memory.md R76). -/
theorem races_iff (s : State) (a n : Nat) : s.races a n = true ↔ ∃ b, a ≤ b ∧ b < a + n ∧ s.inFlightByte b := by
  simp only [State.races, Bool.and_eq_true, List.any_eq_true, meets_iff, State.inFlightByte]
  constructor
  · rintro ⟨hb, r, hr, b, h1, h2, h3, h4⟩
    refine ⟨b, h1, h2, hb, ?_⟩
    unfold State.bufferSet at hr
    split at hr
    · rename_i hi
      refine .inr ⟨⟨_, _, inFlight_init.1 hi⟩, ?_⟩
      simp only [List.mem_cons, List.not_mem_nil, or_false] at hr
      rcases hr with rfl | rfl
      · exact .inl ⟨h3, h4⟩
      · exact .inr ⟨h3, h4⟩
    · rename_i hi
      refine .inl ⟨⟨_, inFlight_update.1 hi⟩, ?_⟩
      split at hr
      · cases hr
      simp only [List.mem_cons, List.not_mem_nil, or_false] at hr
      rcases hr with rfl | rfl
      · exact .inl ⟨h3, h4⟩
      · exact .inr ⟨h3, h4⟩
    · cases hr
  · rintro ⟨b, h1, h2, hb, ⟨⟨m, hd⟩, h⟩ | ⟨⟨m, d, hd⟩, h⟩⟩
    · have hl : s.lLen ≠ 0 := by omega
      rcases h with h | h
      · exact ⟨hb, ⟨s.lSrcAddr, s.lLen⟩, by simp [State.bufferSet, inFlight_update.2 hd, hl], b, h1, h2, h.1, h.2⟩
      · exact ⟨hb, ⟨s.lDstAddr, s.lLen⟩, by simp [State.bufferSet, inFlight_update.2 hd, hl], b, h1, h2, h.1, h.2⟩
    · rcases h with h | h
      · exact ⟨hb, ⟨s.lKeyAddr, s.params.keyBytes⟩, by simp [State.bufferSet, inFlight_init.2 hd], b, h1, h2, h.1, h.2⟩
      · exact ⟨hb, ⟨s.lIvAddr, s.params.blockBytes⟩, by simp [State.bufferSet, inFlight_init.2 hd], b, h1, h2, h.1, h.2⟩

/-- A host access to memory that is let through stays in the address space (20_memory.md R60). -/
theorem hostMemStop_none {s : State} {a n : Nat} (h : hostMemStop s a n = none) : a + n ≤ 2 ^ 32 := by
  unfold hostMemStop at h
  split at h
  · exact nomatch h
  · omega

/-- What a host operation can do: a register read, a register write, a memory read, a memory write, a poll. -/
theorem hostStep_cases {op : HostOp} {s t : State} (h : hostStep op s = .next t) :
    (∃ addr width r, op = .readReg addr width ∧ windowAccess s addr width = .ok r ∧
      t = s.respond (.word (s.readReg r))) ∨
    (∃ addr width v r, op = .writeReg addr width v ∧ windowAccess s addr width = .ok r ∧ t = s.writeReg r v) ∨
    (∃ a n, op = .readMem a n ∧ hostMemStop s a n = none ∧ t = s.respond (.bytes (readBytes s.mem a n))) ∨
    (∃ a bs, op = .writeMem a bs ∧ hostMemStop s a bs.length = none ∧ t = s.store a bs) ∨
    (op = .wait ∧ s.status.busy = true ∧
      t = { s.respond (.word s.status.word) with inputs := .engine :: .host .wait :: s.inputs }) ∨
    (op = .wait ∧ s.status.busy = false ∧ t = s.respond (.word s.status.word)) := by
  cases op with
  | readReg addr width =>
    simp only [hostStep, hostReadReg] at h
    split at h
    · rename_i r hr
      cases h
      exact .inl ⟨addr, width, r, rfl, hr, rfl⟩
    · exact (nomatch h)
  | writeReg addr width v =>
    simp only [hostStep, hostWriteReg] at h
    split at h
    · rename_i r hr
      cases h
      exact .inr (.inl ⟨addr, width, v, r, rfl, hr, rfl⟩)
    · exact (nomatch h)
  | readMem a n =>
    simp only [hostStep, hostReadMem] at h
    split at h
    · rename_i o ho
      simp only [hostMemStop] at ho
      subst h
      split at ho
      · exact (nomatch ho)
      · split at ho
        · exact (nomatch ho)
        · split at ho <;> exact (nomatch ho)
    · rename_i hn
      cases h
      exact .inr (.inr (.inl ⟨a, n, rfl, hn, rfl⟩))
  | writeMem a bs =>
    simp only [hostStep, hostWriteMem] at h
    split at h
    · rename_i o ho
      simp only [hostMemStop] at ho
      subst h
      split at ho
      · exact (nomatch ho)
      · split at ho
        · exact (nomatch ho)
        · split at ho <;> exact (nomatch ho)
    · rename_i hn
      cases h
      exact .inr (.inr (.inr (.inl ⟨a, bs, rfl, hn, rfl⟩)))
  | wait =>
    simp only [hostStep, hostWait] at h
    split at h
    · rename_i hb
      cases h
      exact .inr (.inr (.inr (.inr (.inl ⟨rfl, hb, rfl⟩))))
    · rename_i hb
      cases h
      exact .inr (.inr (.inr (.inr (.inr ⟨rfl, by simpa using hb, rfl⟩))))

/-- A host write to a register: a command, the EVENT bits, a stored value, or nothing. -/
theorem writeReg_frame (s : State) (r : Reg) (v : Word) :
    (s.writeReg r v).params = s.params ∧ (s.writeReg r v).slots = s.slots ∧ (s.writeReg r v).mem = s.mem ∧
    (s.writeReg r v).keybuf = s.keybuf ∧ (s.writeReg r v).ivbuf = s.ivbuf ∧ (s.writeReg r v).inputs = s.inputs ∧
    (s.writeReg r v).resp = s.resp ∧ (s.writeReg r v).calls = s.calls ∧ (s.writeReg r v).draws = s.draws := by
  cases r <;> simp [State.writeReg]
  unfold State.writeCmd
  split <;> simp

end Sys2Proof.Machine
end

