-- ==== Sys2Proof/Laws/Invariant.lean ====
section
/-! SUPPORT. The slot invariants of each slot a command can leave, and the invariant of a completed state. -/

namespace Sys2Proof.Machine

@[simp] theorem length_zeros (n : Nat) : (zeros n).length = n := by simp [zeros]

@[simp] theorem length_fitBytes (n : Nat) (x : Bytes) : (fitBytes n x).length = n := by
  induction n generalizing x with
  | zero => rfl
  | succ n ih => cases x <;> simp [fitBytes, ih]

@[simp] theorem length_backendEncrypt (p : Params) (ks : Nat) (x : Bytes) :
    (backendEncrypt p ks x).length = p.blockBytes := length_fitBytes _ _

@[simp] theorem length_backendDecrypt (p : Params) (ks : Nat) (x : Bytes) :
    (backendDecrypt p ks x).length = p.blockBytes := length_fitBytes _ _

@[simp] theorem length_xorBytes (x y : Bytes) : (xorBytes x y).length = min x.length y.length := by simp [xorBytes]

/-- XOR with the same block twice gives the other operand back. -/
theorem xorBytes_cancel {x y : Bytes} (h : x.length = y.length) : xorBytes (xorBytes x y) y = x := by
  induction x generalizing y with
  | nil => rfl
  | cons a x ih =>
    cases y with
    | nil => simp at h
    | cons b y =>
      simp only [List.length_cons, Nat.add_right_cancel_iff] at h
      simpa [xorBytes, BitVec.xor_assoc] using ih h

theorem backendExpand_lt (p : Params) (d : Dir) (key : Bytes) : backendExpand p d key < 2 ^ p.ksBits :=
  Nat.mod_lt _ (Nat.two_pow_pos _)

theorem Slot.ok_erased (p : Params) : Slot.Ok p (Slot.erased p.blockBytes) where
  cvLength := by simp [Slot.erased]
  ksWidth := Nat.two_pow_pos _
  fresh := fun _ => ⟨rfl, rfl, rfl⟩
  expanded := fun h => nomatch h
  erased := fun _ => rfl

theorem Slot.ok_allocated (p : Params) : Slot.Ok p (Slot.allocated p.blockBytes) where
  cvLength := by simp [Slot.allocated]
  ksWidth := Nat.two_pow_pos _
  fresh := fun _ => ⟨rfl, rfl, rfl⟩
  expanded := fun h => nomatch h
  erased := fun _ => rfl

theorem Slot.ok_failedKeep {p : Params} {t : Slot} (h : t.cv.length = p.blockBytes) : Slot.Ok p t.failedKeep where
  cvLength := h
  ksWidth := Nat.two_pow_pos _
  fresh := fun h => by rcases h with h | h <;> exact (nomatch h)
  expanded := fun h => nomatch h
  erased := fun _ => rfl

theorem Slot.ok_finalizedKeep {p : Params} {t : Slot} (h : t.cv.length = p.blockBytes) :
    Slot.Ok p t.finalizedKeep where
  cvLength := h
  ksWidth := Nat.two_pow_pos _
  fresh := fun h => by rcases h with h | h <;> exact (nomatch h)
  expanded := fun h => nomatch h
  erased := fun _ => rfl

/-- A READY slot with a key schedule `expand_key` returned for its direction, from a key the backend accepts. -/
theorem Slot.ok_ready {p : Params} {d : Dir} {cv key : Bytes} (hcv : cv.length = p.blockBytes)
    (hk : key.length = p.keyBytes) (hr : keyRejected p d key = false) : Slot.Ok p ⟨.ready, d, cv, backendExpand p d key⟩ where
  cvLength := hcv
  ksWidth := backendExpand_lt p d key
  fresh := fun h => by rcases h with h | h <;> exact (nomatch h)
  expanded := fun _ => ⟨key, hk, hr, rfl⟩
  erased := fun h => by rcases h with h | h <;> exact (nomatch h)

/-- A READY slot with another chaining vector of one block. -/
theorem Slot.ok_setCv {p : Params} {t : Slot} {cv : Bytes} (h : Slot.Ok p t) (hr : t.state = .ready)
    (hcv : cv.length = p.blockBytes) : Slot.Ok p { t with cv := cv } where
  cvLength := hcv
  ksWidth := h.ksWidth
  fresh := fun hs => by rcases hs with hs | hs <;> simp [hr] at hs
  expanded := fun _ => h.expanded hr
  erased := fun hs => by rcases hs with hs | hs <;> simp [hr] at hs

/-- Every slot of the file, and the erased one beyond it, meets the slot invariants. -/
theorem slot_ok {s : State} (h : ∀ t ∈ s.slots, Slot.Ok s.params t) (n : Nat) : Slot.Ok s.params (s.slot n) := by
  by_cases hn : n < s.slots.length
  · exact h _ (slot_mem s hn)
  · have : s.slot n = Slot.erased s.params.blockBytes := by
      simp only [State.slot, List.getD_eq_getElem?_getD]
      rw [List.getElem?_eq_none (by omega)]
      rfl
    rw [this]
    exact Slot.ok_erased _

/-- Writing a good slot keeps the slot invariants. -/
theorem slots_ok_set {p : Params} {l : List Slot} {n : Nat} {v : Slot} (h : ∀ t ∈ l, Slot.Ok p t)
    (hv : Slot.Ok p v) : ∀ t ∈ l.set n v, Slot.Ok p t := by
  intro t ht
  rcases List.mem_or_eq_of_mem_set ht with h1 | rfl
  · exact h t h1
  · exact hv

/-- The invariant of a state that a command has just completed into. -/
theorem inv_complete {s : State} {r : ResultCode} {c : CauseCode} (hp : s.params.wf = true)
    (hn : s.slots.length = s.params.numSlots) (hs : ∀ t ∈ s.slots, Slot.Ok s.params t)
    (hm : Memory.wf s.mem = true) (hb : Memory.below (2 ^ 32) s.mem = true) (hl : legalPair r c = true) :
    (s.complete r c).Inv where
  params := hp
  slotCount := hn
  slots := hs
  memForm := hm
  memBound := hb
  legal := hl
  keybuf := rfl
  ivbuf := rfl
  phase :=
    { busyIff := by simp
      idle := fun _ => rfl
      check := fun h => nomatch h
      execInit := fun h => nomatch h
      execBlock := fun h => nomatch h }

/-- The invariant after a failure in execution. -/
theorem inv_fail {s : State} {n : Nat} {c : CauseCode} (hp : s.params.wf = true)
    (hn : s.slots.length = s.params.numSlots) (hs : ∀ t ∈ s.slots, Slot.Ok s.params t)
    (hm : Memory.wf s.mem = true) (hb : Memory.below (2 ^ 32) s.mem = true)
    (hl : legalPair .badState c = true) : (s.fail n c).Inv :=
  inv_complete (s := s.setSlot n (s.slot n).failedKeep) hp (by simpa using hn)
    (slots_ok_set hs (Slot.ok_failedKeep (slot_ok hs n).cvLength)) hm hb hl

/-- The invariant looks at these fields alone, and at memory only through its form. -/
theorem inv_congr {s t : State} (h : s.Inv) (hp : t.params = s.params) (hs : t.slots = s.slots)
    (hm : Memory.wf t.mem = true) (hb : Memory.below (2 ^ 32) t.mem = true) (hst : t.status = s.status)
    (hk : t.keybuf = s.keybuf) (hi : t.ivbuf = s.ivbuf) (hl : t.latch = s.latch) (hph : t.phase = s.phase) :
    t.Inv := by
  obtain ⟨a, b, c, -, -, f, g, i, ⟨j1, j2, j3, j4, j5⟩⟩ := h
  have hslot := fun n => slot_congr (s := s) (t := t) n hs hp
  refine ⟨by rwa [hp], by rwa [hs, hp], by rwa [hs, hp], hm, hb, by rwa [hst], by rw [hk, hp, g], by rw [hi, hp, i],
    ⟨by rw [hst, hph]; exact j1, by rw [hph, hl]; exact j2, by rw [hph, hl]; exact j3, fun hh => ?_, fun hh => ?_⟩⟩
  · obtain ⟨n, d, h1, ⟨x1, x2, x3, x4, x5, x6⟩⟩ := j4 (hph ▸ hh)
    refine ⟨n, d, by rw [hl]; exact h1, ?_⟩
    constructor <;>
      simp only [hp, hslot, State.lKeyLen, State.lIvLen, State.lKeyAddr, State.lIvAddr, hl] <;> assumption
  · obtain ⟨n, h1, ⟨x1, x2, x3, x4, x5⟩, h2⟩ := j5 (hph ▸ hh)
    refine ⟨n, by rw [hl]; exact h1, ?_, ?_⟩
    · constructor <;> simp only [hp, hslot, State.lLen, State.lSrcAddr, State.lDstAddr, hl] <;> assumption
    · simpa only [hp, hl, State.lLen] using h2

/-- B is at least 1. -/
theorem blockBytes_pos {p : Params} (h : p.wf = true) : 0 < p.blockBytes := by
  simp only [Params.wf, Bool.and_eq_true, decide_eq_true_eq] at h
  omega

/-- No more than 16 slots. -/
theorem numSlots_le {p : Params} (h : p.wf = true) : p.numSlots ≤ 16 := by
  simp only [Params.wf, Bool.and_eq_true, decide_eq_true_eq] at h
  omega

end Sys2Proof.Machine
end

