-- ==== Sys2Proof/Laws/Exec.lean ====
section
/-! SUPPORT. What one engine step of each command can do, case by case (40_sequencer.md R122, R123). -/

namespace Sys2Proof.Machine

/-- ALLOC: no FREE slot, or the least one taken (41_alloc_init.md R140, R141). -/
theorem execAlloc_cases (s : State) :
    (s.firstFree = none ∧ execAlloc s = .next (s.complete .outOfMemory .noFreeSlot)) ∨
    (∃ n, s.firstFree = some n ∧ execAlloc s =
      .next (((s.setSlot n (Slot.allocated s.params.blockBytes)).setResultSlot n).complete .success .none)) := by
  unfold execAlloc
  cases h : s.firstFree with
  | none => exact .inl ⟨rfl, by simp [runChecks, allocChecks, firstFailure, h]⟩
  | some n => exact .inr ⟨n, rfl, by simp [runChecks, allocChecks, firstFailure, h, allocEffect]⟩

/-- The first of INIT's checks that fails, or none (40_sequencer.md R123). -/
theorem initChecks_cases (n : Nat) (s : State) :
    (s.params.numSlots ≤ n ∧ firstFailure (initChecks n s) = some ⟨true, .badParameters, .slotRange⟩) ∨
    (n < s.params.numSlots ∧ (s.slot n).state ≠ .allocated ∧
      firstFailure (initChecks n s) = some ⟨true, .badState, .seq⟩) ∨
    (n < s.params.numSlots ∧ (s.slot n).state = .allocated ∧ s.lKeyLen ≠ s.params.keyBytes ∧
      firstFailure (initChecks n s) = some ⟨true, .badParameters, .keyLen⟩) ∨
    (n < s.params.numSlots ∧ (s.slot n).state = .allocated ∧ s.lKeyLen = s.params.keyBytes ∧
      s.lIvLen ≠ s.params.blockBytes ∧ firstFailure (initChecks n s) = some ⟨true, .badParameters, .ivLen⟩) ∨
    (n < s.params.numSlots ∧ (s.slot n).state = .allocated ∧ s.lKeyLen = s.params.keyBytes ∧
      s.lIvLen = s.params.blockBytes ∧
      (2 ^ 32 < s.lKeyAddr + s.params.keyBytes ∨ 2 ^ 32 < s.lIvAddr + s.params.blockBytes) ∧
      firstFailure (initChecks n s) = some ⟨true, .badParameters, .addrRange⟩) ∨
    (s.InitReady n ∧ firstFailure (initChecks n s) = none) := by
  by_cases h1 : s.params.numSlots ≤ n
  · exact .inl ⟨h1, by simp [initChecks, slotRangeRow, firstFailure, h1]⟩
  by_cases h2 : (s.slot n).state = .allocated
  on_goal 2 => exact .inr (.inl ⟨by omega, h2, by
    simp [initChecks, slotRangeRow, seqRow, firstFailure, h1, mt permits_init.1 h2]⟩)
  by_cases h3 : s.lKeyLen = s.params.keyBytes
  on_goal 2 => exact .inr (.inr (.inl ⟨by omega, h2, h3, by
    simp [initChecks, slotRangeRow, seqRow, firstFailure, h1, h2, h3, initPermits]⟩))
  by_cases h4 : s.lIvLen = s.params.blockBytes
  on_goal 2 => exact .inr (.inr (.inr (.inl ⟨by omega, h2, h3, h4, by
    simp [initChecks, slotRangeRow, seqRow, firstFailure, h1, h2, h3, h4, initPermits]⟩)))
  by_cases h5 : 2 ^ 32 < s.lKeyAddr + s.params.keyBytes ∨ 2 ^ 32 < s.lIvAddr + s.params.blockBytes
  · exact .inr (.inr (.inr (.inr (.inl ⟨by omega, h2, h3, h4, h5, by
      simp [initChecks, slotRangeRow, seqRow, firstFailure, h1, h2, h3, h4, initPermits]
      omega⟩))))
  · have hr : s.InitReady n := ⟨by omega, h2, h3, h4, by omega, by omega⟩
    exact .inr (.inr (.inr (.inr (.inr ⟨hr, firstFailure_eq_none.2 (initChecks_pass.2 hr)⟩))))

/-- The first of UPDATE's checks that fails, or none (40_sequencer.md R123). -/
theorem updateChecks_cases (n : Nat) (s : State) :
    (s.params.numSlots ≤ n ∧ firstFailure (updateChecks n s) = some ⟨true, .badParameters, .slotRange⟩) ∨
    (n < s.params.numSlots ∧ (s.slot n).state ≠ .ready ∧
      firstFailure (updateChecks n s) = some ⟨true, .badState, .seq⟩) ∨
    (n < s.params.numSlots ∧ (s.slot n).state = .ready ∧ s.lLen % s.params.blockBytes ≠ 0 ∧
      firstFailure (updateChecks n s) = some ⟨true, .badParameters, .dataLen⟩) ∨
    (n < s.params.numSlots ∧ (s.slot n).state = .ready ∧ s.lLen % s.params.blockBytes = 0 ∧
      (2 ^ 32 < s.lSrcAddr + s.lLen ∨ 2 ^ 32 < s.lDstAddr + s.lLen) ∧
      firstFailure (updateChecks n s) = some ⟨true, .badParameters, .addrRange⟩) ∨
    (s.UpdateReady n ∧ firstFailure (updateChecks n s) = none) := by
  by_cases h1 : s.params.numSlots ≤ n
  · exact .inl ⟨h1, by simp [updateChecks, slotRangeRow, firstFailure, h1]⟩
  by_cases h2 : (s.slot n).state = .ready
  on_goal 2 => exact .inr (.inl ⟨by omega, h2, by
    simp [updateChecks, slotRangeRow, seqRow, firstFailure, h1, mt permits_update.1 h2]⟩)
  by_cases h3 : s.lLen % s.params.blockBytes = 0
  on_goal 2 => exact .inr (.inr (.inl ⟨by omega, h2, h3, by
    simp [updateChecks, slotRangeRow, seqRow, firstFailure, h1, h2, h3, updatePermits]⟩))
  by_cases h5 : 2 ^ 32 < s.lSrcAddr + s.lLen ∨ 2 ^ 32 < s.lDstAddr + s.lLen
  · exact .inr (.inr (.inr (.inl ⟨by omega, h2, h3, h5, by
      simp [updateChecks, slotRangeRow, seqRow, firstFailure, h1, h2, h3, updatePermits]
      omega⟩)))
  · have hr : s.UpdateReady n := ⟨by omega, h2, h3, by omega, by omega⟩
    exact .inr (.inr (.inr (.inr ⟨hr, firstFailure_eq_none.2 (updateChecks_pass.2 hr)⟩)))

/-- INIT in its EXEC_INIT step: a bus error, a failed expansion, or the commit (41_alloc_init.md R143). -/
theorem execInit_exec_cases (n : Nat) (d : Dir) {s : State} (hp : s.phase = .execInit) :
    (((rangeOk s.params s.lIvAddr s.params.blockBytes = false ∨
        rangeOk s.params s.lKeyAddr s.params.keyBytes = false) ∧
      execInit n d s = .next (s.fail n .busError)) ∨
    (rangeOk s.params s.lIvAddr s.params.blockBytes = true ∧ rangeOk s.params s.lKeyAddr s.params.keyBytes = true ∧
      execInit n d s = .next (expandAndCommit n d (loadIv n d
        (s.loadBuffers (readBytes s.mem s.lIvAddr s.params.blockBytes)
          (readBytes s.mem s.lKeyAddr s.params.keyBytes)))))) := by
  unfold execInit
  rw [hp]
  obtain ⟨h, e⟩ | ⟨h1, h2, e⟩ := initExec_cases n d s
  · exact .inl ⟨h, by simp only [e]⟩
  · exact .inr ⟨h1, h2, by simp only [e]⟩

/-- INIT outside that step: its checks (40_sequencer.md R122). -/
theorem execInit_check (n : Nat) (d : Dir) {s : State} (hp : s.phase ≠ .execInit) :
    execInit n d s = .next (runChecks (initChecks n s) (fun t => t.enter .execInit) s) := by
  unfold execInit
  split
  · contradiction
  · rfl

/-- UPDATE outside its EXEC_BLOCK steps: its checks (40_sequencer.md R122). -/
theorem execUpdate_check (n : Nat) {s : State} (hp : s.phase ≠ .execBlock) :
    execUpdate n s = .next (runChecks (updateChecks n s) startBlocks s) := by
  unfold execUpdate
  split
  · contradiction
  · rfl

/-- UPDATE in an EXEC_BLOCK step (42_update.md R160). -/
theorem execUpdate_block (n : Nat) {s : State} (hp : s.phase = .execBlock) :
    execUpdate n s = .next (blockStep n s) := by
  unfold execUpdate
  rw [hp]

/-- FINAL: a check that fails, or the slot finalized (43_final_free.md R190). -/
theorem execFinal_cases (n : Nat) (s : State) :
    (s.params.numSlots ≤ n ∧ execFinal n s = .next (s.complete .badParameters .slotRange)) ∨
    (n < s.params.numSlots ∧ (s.slot n).state ≠ .ready ∧ execFinal n s = .next (s.complete .badState .seq)) ∨
    (n < s.params.numSlots ∧ (s.slot n).state = .ready ∧
      execFinal n s = .next ((s.setSlot n (s.slot n).finalizedKeep).complete .success .none)) := by
  unfold execFinal runChecks
  by_cases h1 : s.params.numSlots ≤ n
  · exact .inl ⟨h1, by simp [finalChecks, slotRangeRow, firstFailure, h1]⟩
  by_cases h2 : (s.slot n).state = .ready
  · exact .inr (.inr ⟨by omega, h2, by
      simp [finalChecks, slotRangeRow, seqRow, firstFailure, h1, h2, finalPermits, finalEffect]⟩)
  · exact .inr (.inl ⟨by omega, h2, by
      simp [finalChecks, slotRangeRow, seqRow, firstFailure, h1, mt permits_final.1 h2]⟩)

/-- FREE: a check that fails, or the slot erased (43_final_free.md R195). -/
theorem execFree_cases (n : Nat) (s : State) :
    (s.params.numSlots ≤ n ∧ execFree n s = .next (s.complete .badParameters .slotRange)) ∨
    (n < s.params.numSlots ∧ (s.slot n).state = .free ∧ execFree n s = .next (s.complete .badState .seq)) ∨
    (n < s.params.numSlots ∧ (s.slot n).state ≠ .free ∧
      execFree n s = .next ((s.setSlot n (Slot.erased s.params.blockBytes)).complete .success .none)) := by
  unfold execFree runChecks
  by_cases h1 : s.params.numSlots ≤ n
  · exact .inl ⟨h1, by simp [freeChecks, slotRangeRow, firstFailure, h1]⟩
  by_cases h2 : (s.slot n).state = .free
  · exact .inr (.inl ⟨by omega, h2, by
      simp [freeChecks, slotRangeRow, seqRow, firstFailure, h1, h2, freePermits]⟩)
  · exact .inr (.inr ⟨by omega, h2, by
      simp [freeChecks, slotRangeRow, seqRow, firstFailure, h1, permits_free.2 h2, freeEffect]⟩)

/-- COPY: a check that fails, or the clone (44_copy_state.md R210). -/
theorem execCopy_cases (t r : Nat) (s : State) :
    ((s.params.numSlots ≤ t ∨ s.params.numSlots ≤ r) ∧
      execCopy t r s = .next (s.complete .badParameters .slotRange)) ∨
    (t < s.params.numSlots ∧ r < s.params.numSlots ∧
      ((s.slot r).state ≠ .ready ∨ (s.slot t).state = .free ∨ (s.slot t).state = .failed) ∧
      execCopy t r s = .next (s.complete .badState .seq)) ∨
    (t < s.params.numSlots ∧ r < s.params.numSlots ∧ (s.slot r).state = .ready ∧
      ((s.slot t).state = .allocated ∨ (s.slot t).state = .ready ∨ (s.slot t).state = .finalized) ∧
      execCopy t r s = .next (copyEffect t r s)) := by
  unfold execCopy runChecks
  by_cases h1 : s.params.numSlots ≤ t
  · exact .inl ⟨.inl h1, by simp [copyChecks, slotRangeRow, firstFailure, h1]⟩
  by_cases h2 : s.params.numSlots ≤ r
  · exact .inl ⟨.inr h2, by simp [copyChecks, slotRangeRow, firstFailure, h1, h2]⟩
  by_cases h3 : (s.slot r).state = .ready
  on_goal 2 => exact .inr (.inl ⟨by omega, by omega, .inl h3, by
    simp [copyChecks, slotRangeRow, seqRow, firstFailure, h1, h2, mt permits_copySource.1 h3]⟩)
  cases h4 : (s.slot t).state with
  | free => exact .inr (.inl ⟨by omega, by omega, .inr (.inl rfl), by
      simp [copyChecks, slotRangeRow, seqRow, firstFailure, h1, h2, h3, h4, copySourcePermits, copyDestPermits]⟩)
  | failed => exact .inr (.inl ⟨by omega, by omega, .inr (.inr rfl), by
      simp [copyChecks, slotRangeRow, seqRow, firstFailure, h1, h2, h3, h4, copySourcePermits, copyDestPermits]⟩)
  | allocated => exact .inr (.inr ⟨by omega, by omega, h3, .inl rfl, by
      simp [copyChecks, slotRangeRow, seqRow, firstFailure, h1, h2, h3, h4, copySourcePermits, copyDestPermits]⟩)
  | ready => exact .inr (.inr ⟨by omega, by omega, h3, .inr (.inl rfl), by
      simp [copyChecks, slotRangeRow, seqRow, firstFailure, h1, h2, h3, h4, copySourcePermits, copyDestPermits]⟩)
  | finalized => exact .inr (.inr ⟨by omega, by omega, h3, .inr (.inr rfl), by
      simp [copyChecks, slotRangeRow, seqRow, firstFailure, h1, h2, h3, h4, copySourcePermits, copyDestPermits]⟩)

theorem runChecks_inputs {rows : List CheckRow} {effect : State → State} {s : State}
    (h : (effect s).inputs = s.inputs) : (runChecks rows effect s).inputs = s.inputs := by
  obtain ⟨r, -, -, e⟩ | ⟨-, e⟩ := runChecks_cases rows effect s
  · simp [e]
  · rw [e, h]

theorem nextBlock_inputs (s : State) : (nextBlock s).inputs = s.inputs := by
  obtain ⟨-, e⟩ | ⟨-, e⟩ := nextBlock_cases s <;> simp [e]

/-- A command takes nothing off the pending inputs and adds nothing to them. -/
theorem exec_inputs {i : Instr} {s t : State} (h : exec i s = .next t) : t.inputs = s.inputs := by
  cases i with
  | alloc =>
    obtain ⟨-, e⟩ | ⟨n, -, e⟩ := execAlloc_cases s <;>
      simp only [exec, e] at h <;> cases h <;> simp [State.setResultSlot]
  | init n d =>
    by_cases hp : s.phase = .execInit
    · obtain ⟨-, e⟩ | ⟨-, -, e⟩ := execInit_exec_cases n d hp <;> simp only [exec, e] at h <;> cases h
      · simp [State.fail]
      · obtain ⟨-, e⟩ | ⟨-, -, e⟩ := expandAndCommit_cases n d (loadIv n d
            (s.loadBuffers (readBytes s.mem s.lIvAddr s.params.blockBytes)
              (readBytes s.mem s.lKeyAddr s.params.keyBytes))) <;>
          (rw [e]; rfl)
    · simp only [exec, execInit_check n d hp] at h
      cases h
      exact runChecks_inputs rfl
  | update n =>
    by_cases hp : s.phase = .execBlock
    · simp only [exec, execUpdate_block n hp] at h
      cases h
      obtain ⟨-, e⟩ | ⟨-, -, e⟩ | ⟨-, -, -, e⟩ | ⟨-, -, -, e⟩ := blockStep_cases n s <;>
        simp [e, State.fail, nextBlock_inputs, setCv]
    · simp only [exec, execUpdate_check n hp] at h
      cases h
      refine runChecks_inputs ?_
      unfold startBlocks
      split <;> simp
  | final n =>
    obtain ⟨-, e⟩ | ⟨-, -, e⟩ | ⟨-, -, e⟩ := execFinal_cases n s <;>
      simp only [exec, e] at h <;> cases h <;> simp
  | free n =>
    obtain ⟨-, e⟩ | ⟨-, -, e⟩ | ⟨-, -, e⟩ := execFree_cases n s <;>
      simp only [exec, e] at h <;> cases h <;> simp
  | copy u r =>
    obtain ⟨-, e⟩ | ⟨-, -, -, e⟩ | ⟨-, -, -, -, e⟩ := execCopy_cases u r s <;>
      simp only [exec, e] at h <;> cases h
    · simp
    · simp
    · unfold copyEffect
      split <;> simp

/-- With nothing pending the engine goes on for any number of steps (log entry 6). -/
theorem stepN_next {s : State} (h : s.inputs = []) (n : Nat) : ∃ t, stepN n s = .next t := by
  induction n generalizing s with
  | zero => exact ⟨s, rfl⟩
  | succ n ih =>
    obtain ⟨t, ht⟩ := engineStep_next s
    have hi : t.inputs = [] := by
      obtain ⟨-, e⟩ | ⟨-, -, -, e⟩ | ⟨-, -, i, -, e⟩ := engineStep_cases s
      · rw [e] at ht
        cases ht
        exact h
      · rw [e] at ht
        cases ht
        simpa [illegalCommand] using h
      · rw [e] at ht
        rw [exec_inputs ht, h]
    obtain ⟨u, hu⟩ := ih hi
    refine ⟨u, ?_⟩
    simp only [stepN, step, h, ht, hu]

end Sys2Proof.Machine
end

