-- ==== Sys2Proof/Laws/PerInstr.lean ====
section
/-! SUPPORT. Statements made per command: the word of a well-formed command lies in its row of the opcode table. -/

namespace Sys2Proof.Laws.RowMatch

/-- The word of a well-formed command matches its row's mask and match (30_encoding.md R99). -/
def Statement (i : Instr) : Prop := i.wf = true → encode i &&& rowMask i = rowMatch i

theorem alloc : Statement .alloc := fun _ => by decide

theorem below16 {n : Nat} (h : slotFieldOk n = true) : n < 16 := by simpa [slotFieldOk] using h

/-- A fact about 4-bit operands holds of every well-formed one if it holds of the sixteen. -/
theorem forall_slot {P : Nat → Prop} (h : ∀ k : Fin 16, P k.val) {n : Nat} (hn : slotFieldOk n = true) : P n :=
  h ⟨n, below16 hn⟩

theorem init (s : Nat) (d : Dir) : Statement (.init s d) := fun h =>
  forall_slot (P := fun s => encode (.init s d) &&& rowMask (.init s d) = rowMatch (.init s d))
    (by cases d <;> decide) h

theorem update (s : Nat) : Statement (.update s) := fun h =>
  forall_slot (P := fun s => encode (.update s) &&& rowMask (.update s) = rowMatch (.update s)) (by decide) h

theorem final (s : Nat) : Statement (.final s) := fun h =>
  forall_slot (P := fun s => encode (.final s) &&& rowMask (.final s) = rowMatch (.final s)) (by decide) h

theorem free (s : Nat) : Statement (.free s) := fun h =>
  forall_slot (P := fun s => encode (.free s) &&& rowMask (.free s) = rowMatch (.free s)) (by decide) h

theorem copy (t r : Nat) : Statement (.copy t r) := fun h => by
  have h' : slotFieldOk t = true ∧ slotFieldOk r = true := by simpa [Instr.wf] using h
  exact forall_slot (P := fun t => encode (.copy t r) &&& rowMask (.copy t r) = rowMatch (.copy t r))
    (fun a => forall_slot
      (P := fun r => encode (.copy a.val r) &&& rowMask (.copy a.val r) = rowMatch (.copy a.val r))
      (by revert a; decide) h'.2) h'.1

end Sys2Proof.Laws.RowMatch
end

