-- ==== Sys2Proof/Machine/HostProgram.lean ====
section
/-! DEFINITION. The host programs' notation: register writes and reads by name and the pseudo-instructions
(30_encoding.md R100 to R102). -/

namespace Sys2Proof.Machine

/-- The offset of a register (10_state.md R21); the first reserved one stands for `reserved`. -/
def Reg.offset : Reg → Nat
  | .cmd => 0x000
  | .status => 0x004
  | .event => 0x008
  | .irqEn => 0x00C
  | .srcAddr => 0x010
  | .dstAddr => 0x014
  | .len => 0x018
  | .keyAddr => 0x01C
  | .keyLen => 0x020
  | .ivAddr => 0x024
  | .ivLen => 0x028
  | .slotState0 => 0x030
  | .slotState1 => 0x034
  | .slotDir => 0x038
  | .cvSel => 0x040
  | .param => 0x044
  | .id => 0x048
  | .cvWin m => 0x080 + 4 * m
  | .reserved => 0x02C

/-- `wr REG, v` (R101). -/
def wr (p : Params) (r : Reg) (v : Word) : Input := .host (.writeReg (p.base + r.offset) .word v)

/-- `rd REG` (R101). -/
def rd (p : Params) (r : Reg) : Input := .host (.readReg (p.base + r.offset) .word)

/-- `wr CMD, <mnemonic>` (R101). -/
def issue (p : Params) (i : Instr) : Input := wr p .cmd (encode i)

/-- `cbc.alloc` (R102). -/
def cbcAlloc (p : Params) : List Input := [issue p .alloc, .host .wait]

/-- `cbc.init s, dir, ka, ia` (R102). -/
def cbcInit (p : Params) (s : Nat) (d : Dir) (ka ia : Word) : List Input :=
  [wr p .keyAddr ka, wr p .keyLen (BitVec.ofNat 32 p.keyBytes), wr p .ivAddr ia,
   wr p .ivLen (BitVec.ofNat 32 p.blockBytes), issue p (.init s d), .host .wait]

/-- `cbc.update s, src, dst, n` (R102). -/
def cbcUpdate (p : Params) (s : Nat) (src dst n : Word) : List Input :=
  [wr p .srcAddr src, wr p .dstAddr dst, wr p .len n, issue p (.update s), .host .wait]

/-- `cbc.final s` (R102). -/
def cbcFinal (p : Params) (s : Nat) : List Input := [issue p (.final s), .host .wait]

/-- `cbc.free s` (R102). -/
def cbcFree (p : Params) (s : Nat) : List Input := [issue p (.free s), .host .wait]

/-- `cbc.copy t, r` (R102). -/
def cbcCopy (p : Params) (t r : Nat) : List Input := [issue p (.copy t r), .host .wait]

/-- `clr.done` (R102). -/
def clrDone (p : Params) : List Input := [wr p .event 1]

end Sys2Proof.Machine
end

