-- ==== Sys2Proof/Tests/Slice0.lean ====
section
/-! SUPPORT. The model's own tests: ill-formed terms, words written out from the encoding, single steps against
95_test_vectors.md, and a witness for the hypotheses of every statement that has some. -/

namespace Sys2Proof.Tests

open Sys2Proof.Machine

/-! ## Well-formedness: an ill-formed term for each check -/

theorem test_wf_refuses_init : (Instr.init 16 .enc).wf = false := by decide
theorem test_wf_refuses_update : (Instr.update 16).wf = false := by decide
theorem test_wf_refuses_final : (Instr.final 99).wf = false := by decide
theorem test_wf_refuses_free : (Instr.free 16).wf = false := by decide
theorem test_wf_refuses_copy_dst : (Instr.copy 16 0).wf = false := by decide
theorem test_wf_refuses_copy_src : (Instr.copy 0 16).wf = false := by decide
theorem test_wf_accepts : (Instr.copy 15 15).wf = true := by decide

/-- 00_scope.md R6: B = 129, NUM_SLOTS = 17, K = 256 and KS_BITS = 0 are refused. -/
theorem test_params_bounds :
    Params.atReset.wf = true ∧ ({ Params.atReset with blockBytes := 129 } : Params).wf = false ∧
    ({ Params.atReset with numSlots := 17 } : Params).wf = false ∧
    ({ Params.atReset with keyBytes := 256 } : Params).wf = false ∧
    ({ Params.atReset with ksBits := 0 } : Params).wf = false := by decide

/-! ## Decoding: words written out bit by bit from 30_encoding.md R99 -/

theorem test_decode_alloc : decode 0b00000000000000000000000000000001#32 = .ok .alloc := by decide
theorem test_decode_init : decode 0b00000000000000000000001000010010#32 = .ok (.init 2 .dec) := by decide
theorem test_decode_update : decode 0b00000000000000000000111100000011#32 = .ok (.update 15) := by decide
theorem test_decode_final : decode 0b00000000000000000000000100000100#32 = .ok (.final 1) := by decide
theorem test_decode_free : decode 0b00000000000000000000001100000101#32 = .ok (.free 3) := by decide
theorem test_decode_copy : decode 0b00000000000000000011000100000110#32 = .ok (.copy 1 3) := by decide
theorem test_decode_reserved_opcode : decode 0x00000007#32 = .error .reservedOpcode := by decide
theorem test_decode_reserved_bits : decode 0x00000022#32 = .error .reservedBits := by decide
theorem test_decode_unused_field : decode 0x00001003#32 = .error .unusedField := by decide
theorem test_decode_table_word : decodeTableWord 32 0x212 = some (.init 2 .dec) := by decide
theorem test_encode_copy : encode (.copy 1 3) = 0x00003106#32 := by decide

/-! ## States for the tests: TOY8 and the shared start state of 95_test_vectors.md sections 1.1 and 1.2 -/

def toyParams : Params := { Params.atReset with backend := .toy8, failures := .never }
/-- TOY8 behind a backend that rejects one key for decryption. -/
def weakKeyParams : Params :=
  { toyParams with
    failures := .listed []
    keyPolicy := .rejects [(.dec, [0x01, 0x23, 0x45, 0x67, 0x89, 0xab, 0xcd, 0xef])] }
def testKey : Bytes := [0x01, 0x23, 0x45, 0x67, 0x89, 0xab, 0xcd, 0xef]
def testIv : Bytes := [0x00, 0x01, 0x02, 0x03, 0x04, 0x05, 0x06, 0x07]
def testPt : Bytes := [0x00, 0x11, 0x22, 0x33, 0x44, 0x55, 0x66, 0x77]
def testCt : Bytes := [0x11, 0x03, 0x75, 0x27, 0xd9, 0xcb, 0xbd, 0xef]
def testMem : List Host.Cell :=
  writeBytes (writeBytes (writeBytes [] 0x1000 testKey) 0x1010 testIv) 0x2000 testPt

/-- The key schedule of the test key: its bytes, least significant first. -/
def testKs : Nat := 0xefcdab8967452301

def freeSlot : Slot := Slot.erased 8
def allocSlot : Slot := ⟨.allocated, .enc, zeros 8, 0⟩
def encSlot : Slot := ⟨.ready, .enc, testIv, testKs⟩
def decSlot : Slot := ⟨.ready, .dec, testIv, testKs⟩
def finalSlot : Slot := ⟨.finalized, .enc, testCt, 0⟩
def failedSlot : Slot := ⟨.failed, .dec, testIv, 0⟩

/-- An idle controller with these two slots and two FREE ones. -/
def idle (a b : Slot) : State :=
  { State.reset with params := toyParams, mem := testMem, slots := [a, b, freeSlot, freeSlot] }

/-- The same with a command in flight in phase `ph`. -/
def flying (i : Instr) (ph : Phase) (args : Args) (nblk k : Nat) (a b : Slot) : State :=
  { idle a b with latch := ⟨encode i, args, nblk, k⟩, phase := ph, status := ⟨true, .success, .none, 0⟩ }

def initArgs : Args := ⟨0, 0, 0, 0x1000, 8, 0x1010, 8⟩
def updateArgs (src dst len : Word) : Args := ⟨src, dst, len, 0, 0, 0, 0⟩

/-- The state an outcome carries; the state after reset for a stop. -/
def after : Host.Outcome State Fault Refusal → State
  | .next s => s
  | _ => State.reset

/-! ## Single steps against 95_test_vectors.md -/

/-- Vector A1. -/
theorem test_alloc : (after (exec .alloc (idle freeSlot freeSlot))).slot 0 = allocSlot := by decide

/-- Vector A6: a FINALIZED slot is not reused. -/
theorem test_alloc_skips_finalized :
    (after (exec .alloc (idle finalSlot freeSlot))).status = ⟨false, .success, .none, 1⟩ := by decide

/-- Vector I2. -/
theorem test_init : (after (exec (.init 0 .dec) (flying (.init 0 .dec) .execInit initArgs 0 0 allocSlot freeSlot))).slot 0
    = decSlot := by decide

/-- 41_alloc_init.md R153, R150: the same INIT with a backend that rejects the key for this direction. -/
theorem test_init_rejected_key :
    let t := after (exec (.init 0 .dec)
      { flying (.init 0 .dec) .execInit initArgs 0 0 allocSlot freeSlot with params := weakKeyParams })
    t.status.cause = .keyExpand ∧ t.slot 0 = ⟨.failed, .dec, testIv, 0⟩ := by decide

/-- Vector I5: the key length is reported first. -/
theorem test_init_key_len_first :
    (after (exec (.init 0 .enc) (flying (.init 0 .enc) .check ⟨0, 0, 0, 0x1000, 16, 0x1010, 16⟩ 0 0 allocSlot
      freeSlot))).status.cause = .keyLen := by decide

/-- Vector U1: the memory written. -/
theorem test_update_memory :
    readBytes (after (exec (.update 0) (flying (.update 0) .execBlock (updateArgs 0x2000 0x3000 8) 1 0 encSlot
      freeSlot))).mem 0x3000 8 = testCt := by decide

/-- Vector U1 read backwards (section 1.3, block 0): decryption writes the plaintext in place and CV is the input block. -/
theorem test_update_decrypt_in_place :
    let t := after (exec (.update 0) { flying (.update 0) .execBlock (updateArgs 0x2000 0x2000 8) 1 0 decSlot freeSlot
      with mem := writeBytes [] 0x2000 testCt })
    readBytes t.mem 0x2000 8 = testPt ∧ (t.slot 0).cv = testCt := by decide

/-- Vector F1. -/
theorem test_final : (after (exec (.final 0) (idle encSlot freeSlot))).slot 0 = ⟨.finalized, .enc, testIv, 0⟩ := by
  decide

/-- Vector F2. -/
theorem test_final_twice : (after (exec (.final 0) (idle finalSlot freeSlot))).status.cause = .seq := by decide

/-- Vector FR3. -/
theorem test_free_failed : (after (exec (.free 0) (idle failedSlot freeSlot))).slot 0 = freeSlot := by decide

/-- Vector FR4. -/
theorem test_free_out_of_range : (after (exec (.free 7) (idle encSlot freeSlot))).status.cause = .slotRange := by decide

/-- Vector K9. -/
theorem test_copy_overwrites : (after (exec (.copy 1 0) (idle encSlot decSlot))).slot 1 = encSlot := by decide

/-- Vector K4. -/
theorem test_copy_from_allocated : (after (exec (.copy 1 0) (idle allocSlot allocSlot))).status.cause = .seq := by decide

/-- Vectors T1 and T2. -/
theorem test_toy_backend :
    backendEncrypt toyParams testKs testIv = [0x00, 0x21, 0x46, 0x63, 0x8c, 0xad, 0xca, 0xef] ∧
    backendDecrypt toyParams testKs [0x00, 0x21, 0x46, 0x63, 0x8c, 0xad, 0xca, 0xef] = testIv := by decide

/-- Vector A2: STATUS as a word. -/
theorem test_status_word : (Status.word ⟨false, .outOfMemory, .noFreeSlot, 3⟩) = 0x00032030#32 := by decide

/-- Vector Q3: PARAM, and CV_WIN0 of vector I1. -/
theorem test_window_words :
    paramWord toyParams = 0x00040808#32 ∧ (idle encSlot freeSlot).readReg (.cvWin 0) = 0x03020100#32 := by decide

/-- 10_state.md R43: which slot's CV a command in flight leaves open. -/
theorem test_names_slot :
    (flying (.copy 1 0) .check Args.zero 0 0 encSlot allocSlot).namesSlot 1 = true ∧
    (flying (.copy 1 0) .check Args.zero 0 0 encSlot allocSlot).namesSlot 0 = false ∧
    (flying .alloc .check Args.zero 0 0 encSlot freeSlot).namesSlot 1 = true := by decide

/-- 30_encoding.md R97: an illegal word's CHECK step. -/
theorem test_illegal_word :
    (after (engineStep { idle encSlot freeSlot with
      latch := ⟨0x00010003#32, Args.zero, 0, 0⟩, phase := .check, status := ⟨true, .success, .none, 0⟩ })).status
    = ⟨false, .badParameters, .illegalCmd, 0⟩ := by decide

/-- 10_state.md R38, R39 on the end state of P2's kind: FINALIZED in slot 0, a DEC direction in slot 1. -/
theorem test_slot_registers :
    (idle finalSlot decSlot).readReg .slotState0 = 0x00000023#32 ∧
    (idle finalSlot decSlot).readReg .slotDir = 0x00000002#32 := by decide

/-- The first step after reset runs the command that `withFetchWord` places: ALLOC takes slot 0 (vector A1). -/
theorem test_fetch_word : (after (step (State.reset.withFetchWord 32 1))).status = ⟨false, .success, .none, 0⟩ ∧
    ((after (step (State.reset.withFetchWord 32 1))).slot 0).state = .allocated := by decide

/-! ## Witnesses: states and operands that meet the hypotheses of the statements -/

theorem testKs_expanded (d : Dir) : testKs = backendExpand toyParams d testKey := by cases d <;> decide

theorem encSlot_ok : Slot.Ok toyParams encSlot := by
  unfold encSlot
  rw [testKs_expanded .enc]
  exact Slot.ok_ready (by decide) (by decide) (by decide)

theorem decSlot_ok : Slot.Ok toyParams decSlot := by
  unfold decSlot
  rw [testKs_expanded .dec]
  exact Slot.ok_ready (by decide) (by decide) (by decide)

theorem freeSlot_ok : Slot.Ok toyParams freeSlot := Slot.ok_erased toyParams
theorem allocSlot_ok : Slot.Ok toyParams allocSlot := Slot.ok_allocated toyParams
theorem finalSlot_ok : Slot.Ok toyParams finalSlot :=
  Slot.ok_finalizedKeep (t := ⟨.ready, .enc, testCt, 0⟩) (by decide)
theorem failedSlot_ok : Slot.Ok toyParams failedSlot := Slot.ok_failedKeep (t := ⟨.ready, .dec, testIv, 0⟩) (by decide)

theorem slots_ok {a b : Slot} (ha : Slot.Ok toyParams a) (hb : Slot.Ok toyParams b) :
    ∀ t ∈ [a, b, freeSlot, freeSlot], Slot.Ok toyParams t := by
  intro t ht
  simp only [List.mem_cons, List.not_mem_nil, or_false] at ht
  rcases ht with rfl | rfl | rfl | rfl
  · exact ha
  · exact hb
  · exact freeSlot_ok
  · exact freeSlot_ok

theorem idle_inv {a b : Slot} (ha : Slot.Ok toyParams a) (hb : Slot.Ok toyParams b) : (idle a b).Inv where
  params := by show toyParams.wf = true; decide
  slotCount := rfl
  slots := slots_ok ha hb
  memForm := by show Memory.wf testMem = true; decide
  memBound := by show Memory.below (2 ^ 32) testMem = true; decide
  legal := rfl
  keybuf := rfl
  ivbuf := rfl
  phase := ⟨⟨fun h => (nomatch h), fun h => absurd rfl h⟩, fun _ => rfl, fun h => (nomatch h), fun h => (nomatch h),
    fun h => (nomatch h)⟩

/-- Any command in its CHECK step. -/
theorem check_inv (i : Instr) (args : Args) {a b : Slot} (ha : Slot.Ok toyParams a) (hb : Slot.Ok toyParams b) :
    (flying i .check args 0 0 a b).Inv where
  params := by show toyParams.wf = true; decide
  slotCount := rfl
  slots := slots_ok ha hb
  memForm := by show Memory.wf testMem = true; decide
  memBound := by show Memory.below (2 ^ 32) testMem = true; decide
  legal := rfl
  keybuf := rfl
  ivbuf := rfl
  phase := ⟨⟨fun _ h => (nomatch h), fun _ => rfl⟩, fun h => (nomatch h), fun _ => ⟨rfl, rfl⟩, fun h => (nomatch h),
    fun h => (nomatch h)⟩

/-- INIT in its EXEC_INIT step, with these arguments. -/
theorem init_inv (args : Args) (h : (flying (.init 0 .dec) .execInit args 0 0 allocSlot encSlot).InitReady 0) :
    (flying (.init 0 .dec) .execInit args 0 0 allocSlot encSlot).Inv where
  params := by show toyParams.wf = true; decide
  slotCount := rfl
  slots := slots_ok allocSlot_ok encSlot_ok
  memForm := by show Memory.wf testMem = true; decide
  memBound := by show Memory.below (2 ^ 32) testMem = true; decide
  legal := rfl
  keybuf := rfl
  ivbuf := rfl
  phase := ⟨⟨fun _ h => (nomatch h), fun _ => rfl⟩, fun h => (nomatch h), fun h => (nomatch h),
    fun _ => ⟨0, .dec, by show decode (encode (.init 0 .dec)) = _; decide, h⟩, fun h => (nomatch h)⟩

/-- UPDATE of slot 0 in the EXEC_BLOCK step of block 0 of 1, with these addresses. -/
theorem block_inv {a : Slot} (src dst : Word) (ha : Slot.Ok toyParams a)
    (h : (flying (.update 0) .execBlock (updateArgs src dst 8) 1 0 a freeSlot).UpdateReady 0) :
    (flying (.update 0) .execBlock (updateArgs src dst 8) 1 0 a freeSlot).Inv where
  params := by show toyParams.wf = true; decide
  slotCount := rfl
  slots := slots_ok ha freeSlot_ok
  memForm := by show Memory.wf testMem = true; decide
  memBound := by show Memory.below (2 ^ 32) testMem = true; decide
  legal := rfl
  keybuf := rfl
  ivbuf := rfl
  phase := ⟨⟨fun _ h => (nomatch h), fun _ => rfl⟩, fun h => (nomatch h), fun h => (nomatch h), fun h => (nomatch h),
    fun _ => ⟨0, by show decode (encode (.update 0)) = _; decide, h,
      by show 1 = (8#32 : Word).toNat / 8; decide, Nat.zero_lt_one⟩⟩

/-- The state a step of the idle host side or of the engine leaves, as the witnesses name it. -/
theorem step_after {s : State} (h : s.inputs = []) : step s = .next (after (step s)) := by
  obtain ⟨t, e⟩ := engineStep_next s
  have : step s = .next t := by simp only [step, h, e]
  rw [this]
  rfl

theorem exec_after (i : Instr) (s : State) : exec i s = .next (after (exec i s)) := by
  obtain ⟨t, e⟩ := exec_next i s
  rw [e]
  rfl

theorem engineStep_after (s : State) : engineStep s = .next (after (engineStep s)) := by
  obtain ⟨t, e⟩ := engineStep_next s
  rw [e]
  rfl

theorem stepN_after {s : State} (h : s.inputs = []) (n : Nat) : stepN n s = .next (after (stepN n s)) := by
  obtain ⟨t, e⟩ := stepN_next h n
  rw [e]
  rfl

theorem turn_of_nil {s : State} (h : s.inputs = []) : s.engineTurn s := .inl ⟨h, rfl⟩

/-! ### Encoding -/

theorem test_witness_DecodeInvertsEncode :
    (Instr.init 15 .dec).wf = true ∧ (Instr.update 0).wf = true ∧ (Instr.copy 15 15).wf = true := by decide

theorem test_witness_EncodeInvertsDecode : decode 0x0000FF06#32 = .ok (.copy 15 15) := by decide

theorem test_witness_DecodeFollowsThePseudocode :
    0x00000F12#32 &&& rowMask (.init 0 .enc) = rowMatch (.init 0 .enc) ∧
    0x00000F12#32 &&& rowMask (.init 7 .dec) = rowMatch (.init 7 .dec) := by decide

/-- An illegal word before it is accepted, and in its CHECK step. -/
theorem test_witness_IllegalWordsAreReported :
    (decode 0x00000007#32 = .error .reservedOpcode ∧ (idle encSlot freeSlot).status.busy = false) ∧
    let s := { idle encSlot freeSlot with
      latch := ⟨0x00000007#32, Args.zero, 0, 0⟩, phase := Phase.check, status := ⟨true, .success, .none, 0⟩ }
    s.status.busy = true ∧ s.phase = .check ∧ s.latch.cmd = 0x00000007#32 := by decide

/-! ### Reset -/

/-- A reset while idle, in a CHECK step and in a block step. -/
def beforeReset (s : State) : State := { s with inputs := [.reset] }
def midBlock : State := flying (.update 0) .execBlock (updateArgs 0x2000 0x3000 8) 1 0 encSlot freeSlot

theorem test_witness_PlatformResetClearsTheController :
    (beforeReset (idle encSlot decSlot)).inputs = .reset :: [] ∧ (beforeReset (idle encSlot decSlot)).phase ≠ .execBlock ∧
    (beforeReset midBlock).inputs = .reset :: [] := by decide

/-- A block whose write can be under way, one whose read is a bus error, one whose backend call fails, and a CHECK step. -/
theorem test_witness_ResetDuringACommandTouchesOneBlock :
    (Memory.wf (beforeReset midBlock).mem = true ∧ (beforeReset midBlock).status.busy = true ∧
      (beforeReset midBlock).phase = .execBlock) ∧
    (let s := beforeReset (flying (.update 0) .execBlock (updateArgs 0xFFF9 0x3000 8) 1 0 encSlot freeSlot)
     Memory.wf s.mem = true ∧ s.inputs = .reset :: [] ∧ s.status.busy = true ∧
       rangeOk s.params s.blockIn s.params.blockBytes = false) ∧
    (let s := beforeReset { midBlock with params := { toyParams with failures := .listed [0] } }
     s.status.busy = true ∧ oracleFails s.params.failures s.calls = true) ∧
    let s := beforeReset (flying (.free 0) .check Args.zero 0 0 encSlot freeSlot)
    Memory.wf s.mem = true ∧ s.inputs = .reset :: [] ∧ s.status.busy = true ∧ s.phase ≠ .execBlock := by decide

/-- 70_reset_and_hazards.md R272 with 42_update.md R168: a reset in a block step whose read is a bus error leaves the
destination bytes, which the bus admits. -/
theorem test_reset_after_bad_read :
    let s := flying (.update 0) .execBlock (updateArgs 0xFFF9 0x2000 8) 1 0 encSlot freeSlot
    readBytes s.platformReset.mem 0x2000 8 = testPt ∧ rangeOk s.params s.blockOut s.params.blockBytes = true := by decide

/-! ### Registers -/

theorem test_witness_EventIsWriteOneToClear : midBlock.status.busy = true := by decide

/-- A host writes SRC_ADDR, and a reset clears a nonzero one. -/
theorem test_witness_ArgumentRegistersBelongToTheHost :
    let s := { idle encSlot freeSlot with inputs := [wr toyParams .srcAddr 5] }
    step s = .next { s with inputs := [], args := { s.args with srcAddr := 5 } } ∧
    ({ s.args with srcAddr := 5 } : Args) ≠ s.args := ⟨rfl, by decide⟩

/-- Reads while idle and while a command is in flight. -/
theorem test_witness_RegisterReadsHaveNoEffect :
    (∃ t, hostStep (.readReg 0x40000008 .word) (idle encSlot freeSlot) = .next t) ∧
    (idle encSlot freeSlot).status.busy = false ∧ ∃ t, hostStep (.readReg 0x400000FC .word) midBlock = .next t :=
  ⟨⟨_, rfl⟩, rfl, ⟨_, rfl⟩⟩

/-- The boundaries of each range of offsets. -/
theorem test_witness_ReservedSpaceIsInert :
    (0x04C % 4 = 0 ∧ 0x04C ≤ 0x07C) ∧ (0x07C % 4 = 0 ∧ 0x04C ≤ 0x07C) ∧ (0x080 % 4 = 0 ∧ 0x080 ≤ 0x0FC) ∧
    0x0FC % 4 = 0 ∧ 0x02C % 4 = 0 ∧ 0x03C % 4 = 0 ∧ 0x038 % 4 = 0 ∧ (idle encSlot freeSlot).params.wf = true := by decide

theorem test_witness_OddRegisterAccessesAreRefused :
    (255 < 256 ∧ 255 % 4 ≠ 0) ∧ (AccessWidth.double ≠ .word ∧ 0 < 256) ∧ 252 < 256 ∧ 252 % 4 = 0 := by decide

/-- An idle controller; one at work on another slot; a selected index beyond the slot file. -/
theorem test_witness_CvWindowShowsTheSelectedCv :
    (idle encSlot freeSlot).status.busy = false ∧
    (let s := { midBlock with cvSel := 1 }
     s.status.busy = true ∧ s.namesSlot s.cvSel.toNat = false ∧ s.cvSel.toNat < s.params.numSlots) ∧
    (let s := { idle encSlot freeSlot with cvSel := 15 }
     s.status.busy = false ∧ ¬ s.cvSel.toNat < s.params.numSlots) ∧
    4 * 1 + 3 < (idle encSlot freeSlot).params.blockBytes ∧ ¬ 4 * 2 + 0 < (idle encSlot freeSlot).params.blockBytes := by
  decide

/-- Slots 0 and 3 in the file, 4, 7, 8 and 15 beyond it; a command in flight that names slot 0. -/
theorem test_witness_SlotRegistersShowTheSlots :
    (flying (.free 0) .check Args.zero 0 0 encSlot freeSlot).Inv ∧
    let s := flying (.free 0) .check Args.zero 0 0 encSlot freeSlot
    s.status.busy = true ∧ s.namesSlot 0 = true ∧ s.namesSlot 3 = false ∧ 3 < s.params.numSlots ∧
      s.params.numSlots ≤ 4 ∧ s.params.numSlots ≤ 15 :=
  ⟨check_inv _ _ encSlot_ok freeSlot_ok, by decide⟩

theorem test_witness_ParamAndIdAreConstant :
    midBlock.params.wf = true ∧ step midBlock = .next (after (step midBlock)) := ⟨by decide, step_after rfl⟩

/-! ### The sequencer -/

theorem test_witness_CmdWriteIsAccepted :
    let s := { idle encSlot freeSlot with inputs := [wr toyParams .cmd 0x00000003#32] }
    s.status.busy = false ∧ s.inputs = .host (.writeReg s.params.base .word 0x00000003#32) :: [] := by decide

theorem test_witness_CmdWriteWhileBusyIsDropped :
    let s := { midBlock with inputs := [wr toyParams .cmd 0x00000003#32] }
    s.status.busy = true ∧ s.inputs = .host (.writeReg s.params.base .word 0x00000003#32) :: [] := by decide

/-- With nothing pending, and with the engine's turn pending. -/
theorem test_witness_IdleEngineHasNoStep :
    ((idle encSlot freeSlot).engineTurn (idle encSlot freeSlot) ∧ (idle encSlot freeSlot).status.busy = false) ∧
    State.engineTurn { idle encSlot freeSlot with inputs := [.engine] } (idle encSlot freeSlot) :=
  ⟨⟨turn_of_nil rfl, by decide⟩, .inr ⟨[], rfl, rfl⟩⟩

theorem test_witness_StepRunsTheCommandInFlight :
    midBlock.engineTurn midBlock ∧ midBlock.status.busy = true ∧ midBlock.phase ≠ .idle ∧
    decode midBlock.latch.cmd = .ok (.update 0) := ⟨turn_of_nil rfl, by decide⟩

/-- INIT's check row by row: the state and arguments where that row is the first to fail, and one where none fails. -/
theorem test_witness_ChecksRunInOrder_init :
    let s := fun args a => flying (.init 0 .enc) .check args 0 0 a freeSlot
    decode (s initArgs allocSlot).latch.cmd = .ok (.init 0 .enc) ∧ (s initArgs allocSlot).status.busy = true ∧
    (s initArgs allocSlot).phase = .check ∧ (s initArgs allocSlot).params.numSlots ≤ 4 ∧
    ((s initArgs encSlot).slot 0).state ≠ .allocated ∧ ((s initArgs allocSlot).slot 0).state = .allocated ∧
    (s ⟨0, 0, 0, 0, 7, 0, 8⟩ allocSlot).lKeyLen ≠ 8 ∧ (s ⟨0, 0, 0, 0, 8, 0, 9⟩ allocSlot).lIvLen ≠ 8 ∧
    (s ⟨0, 0, 0, 0xFFFFFFF9, 8, 0, 8⟩ allocSlot).lKeyAddr + 8 > 2 ^ 32 ∧
    (s ⟨0, 0, 0, 0xFFFFFFF8, 8, 0xFFFFFFF8, 8⟩ allocSlot).lIvAddr + 8 ≤ 2 ^ 32 := by decide

/-- UPDATE's rows. -/
theorem test_witness_ChecksRunInOrder_update :
    let s := fun n args a => flying (.update n) .check args 0 0 a freeSlot
    (decode (s 4 (updateArgs 0 0 8) encSlot).latch.cmd = .ok (.update 4) ∧
      (s 4 (updateArgs 0 0 8) encSlot).params.numSlots ≤ 4) ∧
    ((s 0 (updateArgs 0 0 8) finalSlot).slot 0).state ≠ .ready ∧
    ((s 0 (updateArgs 0 0 12) encSlot).slot 0).state = .ready ∧ (s 0 (updateArgs 0 0 12) encSlot).lLen % 8 ≠ 0 ∧
    (s 0 (updateArgs 0xFFFFFFF9 0 8) encSlot).lLen % 8 = 0 ∧
    (s 0 (updateArgs 0xFFFFFFF9 0 8) encSlot).lSrcAddr + 8 > 2 ^ 32 := by decide

/-- The rows of the other commands, and an illegal word. -/
theorem test_witness_ChecksRunInOrder_others :
    (let s := { flying .alloc .check Args.zero 0 0 encSlot decSlot with slots := [encSlot, decSlot, finalSlot, failedSlot] }
     decode s.latch.cmd = .ok .alloc ∧ ∀ n < s.slots.length, (s.slot n).state ≠ .free) ∧
    (let s := flying (.final 1) .check Args.zero 0 0 encSlot allocSlot
     decode s.latch.cmd = .ok (.final 1) ∧ 1 < s.params.numSlots ∧ (s.slot 1).state ≠ .ready) ∧
    (let s := flying (.free 3) .check Args.zero 0 0 encSlot allocSlot
     decode s.latch.cmd = .ok (.free 3) ∧ 3 < s.params.numSlots ∧ (s.slot 3).state = .free) ∧
    (let s := flying (.copy 1 0) .check Args.zero 0 0 encSlot failedSlot
     decode s.latch.cmd = .ok (.copy 1 0) ∧ (s.slot 0).state = .ready ∧ (s.slot 1).state = .failed) ∧
    (let s := flying (.copy 1 15) .check Args.zero 0 0 encSlot failedSlot
     decode s.latch.cmd = .ok (.copy 1 15) ∧ s.params.numSlots ≤ 15) ∧
    decode 0x0000000F#32 = .error .reservedOpcode := by decide

theorem test_witness_FailedChecksChangeNothing :
    let s := flying (.final 0) .check Args.zero 0 0 finalSlot freeSlot
    s.status.busy = true ∧ s.phase = .check ∧ engineStep s = .next (after (engineStep s)) ∧
    (after (engineStep s)).status.busy = false ∧ (after (engineStep s)).status.result ≠ .success :=
  ⟨by decide, by decide, engineStep_after _, by decide, by decide⟩

/-- Both values of every entry of the table: slot 0 READY, slot 1 ALLOCATED, slot 2 FREE. -/
theorem test_witness_ValidatorFollowsTheTable :
    let s := flying (.copy 1 0) .check Args.zero 0 0 encSlot allocSlot
    s.phase = .check ∧ 2 < s.params.numSlots ∧ (s.slot 0).state = .ready ∧ (s.slot 1).state = .allocated ∧
    (s.slot 2).state = .free := by decide

/-- A FAILED slot that each command names, and one that FREE takes out of FAILED. -/
theorem test_witness_FailedSlotsAcceptOnlyFree :
    let s := flying (.free 0) .check Args.zero 0 0 failedSlot encSlot
    (s.phase = .check ∧ 0 < s.params.numSlots ∧ 1 < s.params.numSlots ∧ (s.slot 0).state = .failed ∧
      0 < s.slots.length) ∧
    s.Inv ∧ step s = .next (after (step s)) ∧ ((after (step s)).slot 0).state ≠ .failed :=
  ⟨by decide, check_inv _ _ failedSlot_ok encSlot_ok, step_after rfl, by decide⟩

/-- A step that changes a slot's state: FINAL on a READY slot. -/
theorem test_witness_LifecycleTransitions :
    let s := flying (.final 0) .check Args.zero 0 0 encSlot freeSlot
    s.Inv ∧ 0 < s.params.numSlots ∧ step s = .next (after (step s)) ∧
    ((after (step s)).slot 0).state ≠ (s.slot 0).state :=
  ⟨check_inv _ _ encSlot_ok freeSlot_ok, by decide, step_after rfl, by decide⟩

theorem test_witness_CompletionClearsTheEngine :
    midBlock.status.busy = true ∧ midBlock.phase ≠ .idle ∧ engineStep midBlock = .next (after (engineStep midBlock)) ∧
    (after (engineStep midBlock)).status.busy = false :=
  ⟨by decide, by decide, engineStep_after _, by decide⟩

/-- BUSY rises at a CMD write, and falls at a completion. -/
theorem test_witness_BusyChangesInTwoPlacesOnly :
    (let s := { idle encSlot freeSlot with inputs := [wr toyParams .cmd 0x00000003#32] }
     s.status.busy = false ∧ ∃ t, step s = .next t ∧ t.status.busy = true) ∧
    midBlock.status.busy = true ∧ step midBlock = .next (after (step midBlock)) ∧
    (after (step midBlock)).status.busy = false :=
  ⟨⟨rfl, _, rfl, rfl⟩, by decide, step_after rfl, by decide⟩

theorem test_witness_ReportsFollowTheTable :
    midBlock.phase ≠ .idle ∧ midBlock.status.busy = true ∧
    exec (.update 0) midBlock = .next (after (exec (.update 0) midBlock)) ∧
    (after (exec (.update 0) midBlock)).status.busy = false :=
  ⟨by decide, by decide, exec_after _ _, by decide⟩

theorem test_witness_ResultSlotIsWrittenByAllocOnly :
    let s := flying .alloc .check Args.zero 0 0 encSlot freeSlot
    s.firstFree = some 1 ∧ step s = .next (after (step s)) ∧
    (after (step s)).status.resultSlot ≠ s.status.resultSlot := ⟨by decide, step_after rfl, by decide⟩

/-- One state for each kind of command: INIT, UPDATE, one of the rest, an illegal word. -/
theorem test_witness_EveryCommandCompletes :
    (flying (.init 0 .enc) .check initArgs 0 0 allocSlot freeSlot).Inv ∧
    (flying (.update 0) .check (updateArgs 0x2000 0x3000 8) 0 0 encSlot freeSlot).Inv ∧
    (flying .alloc .check Args.zero 0 0 encSlot freeSlot).Inv ∧
    (flying .alloc .check Args.zero 0 0 encSlot freeSlot).inputs = [] ∧
    (flying .alloc .check Args.zero 0 0 encSlot freeSlot).phase = .check :=
  ⟨check_inv _ _ allocSlot_ok freeSlot_ok, check_inv _ _ encSlot_ok freeSlot_ok, check_inv _ _ encSlot_ok freeSlot_ok,
    rfl, rfl⟩

/-! ### Memory -/

/-- The last admitted byte, the first refused one, and a read that succeeds. -/
theorem test_witness_MemReadReturnsTheBytes :
    busOk toyParams 0xFFFF = true ∧ busOk toyParams 0x10000 = false ∧
    memRead (idle encSlot freeSlot) 0x2000 2 = some [0x00, 0x11] := by decide

theorem test_witness_MemWriteStoresTheBytes :
    Memory.wf testMem = true ∧ 7 < testIv.length ∧ busOk toyParams 0x10000 = false := by decide

/-- An INIT in flight. -/
def midInit : State := flying (.init 0 .dec) .execInit initArgs 0 0 allocSlot encSlot

/-- The last byte of an UPDATE's source and of its destination, and the last bytes of an INIT's key and IV. -/
theorem test_witness_BufferRacesAreFaults :
    (midBlock.inFlightByte 0x2007 ∧ midBlock.inFlightByte 0x3007) ∧
    (midInit.inFlightByte 0x1007 ∧ midInit.inFlightByte 0x1017) ∧
    midBlock.params.windowMapped = false ∧ 0x2007 + 1 ≤ 2 ^ 32 :=
  ⟨⟨⟨rfl, .inl ⟨⟨0, by decide⟩, .inl (by decide)⟩⟩, ⟨rfl, .inl ⟨⟨0, by decide⟩, .inr (by decide)⟩⟩⟩,
    ⟨⟨rfl, .inr ⟨⟨0, .dec, by decide⟩, .inl (by decide)⟩⟩, ⟨rfl, .inr ⟨⟨0, .dec, by decide⟩, .inr (by decide)⟩⟩⟩,
    by decide, by decide⟩

/-- While idle, up to the last bytes of the address space; while an UPDATE is in flight, up to the byte before its
source; an access beside a mapped window. -/
theorem test_witness_HostMemoryAccessesReachMemory :
    (∀ b, 0xFFFFFFF8 ≤ b → b < 0xFFFFFFF8 + 8 → ¬ (idle encSlot freeSlot).inFlightByte b) ∧
    (midBlock.status.busy = true ∧ ∀ b, 0x1FF8 ≤ b → b < 0x1FF8 + 8 → ¬ midBlock.inFlightByte b) ∧
    midBlock.params.windowMapped = false ∧ Memory.wf midBlock.mem = true ∧ 0xFFFFFFF8 + 8 ≤ 2 ^ 32 ∧
    testIv.length = 8 ∧ Region.meets (windowRegion toyParams) 0x3FFFFFF8 8 = false := by
  refine ⟨fun b _ _ h => (nomatch h.1), ⟨rfl, fun b h1 h2 h => ?_⟩, by decide⟩
  obtain ⟨-, ⟨-, h⟩ | ⟨⟨n, d, hd⟩, -⟩⟩ := h
  · have hs : midBlock.lSrcAddr = 0x2000 := by decide
    have ht : midBlock.lDstAddr = 0x3000 := by decide
    omega
  · have hu : decode midBlock.latch.cmd = .ok (.update 0) := by decide
    rw [hu] at hd
    cases hd

/-! ### Commands -/

/-- Slot 1 the least FREE one; and no FREE slot. -/
theorem test_witness_AllocTakesTheLeastFreeSlot :
    (let s := idle encSlot freeSlot
     1 < s.slots.length ∧ (s.slot 1).state = .free ∧ ∀ m < 1, (s.slot m).state ≠ .free) ∧
    let s := { idle encSlot freeSlot with slots := [encSlot, decSlot, finalSlot, failedSlot] }
    ∀ n < s.slots.length, (s.slot n).state ≠ .free := by decide

theorem test_witness_InitInstallsIvAndKeySchedule :
    let s := flying (.init 0 .dec) .execInit initArgs 0 0 allocSlot encSlot
    s.phase = .execInit ∧ 0 < s.slots.length ∧ rangeOk s.params s.lIvAddr s.params.blockBytes = true ∧
    rangeOk s.params s.lKeyAddr s.params.keyBytes = true ∧
    keyRejected s.params .dec (readBytes s.mem s.lKeyAddr s.params.keyBytes) = false ∧
    oracleFails s.params.failures s.calls = false := by decide

/-- The IV past the admitted bytes, and the key past them. -/
theorem test_witness_InitBusErrorFailsTheSlot :
    (let s := flying (.init 0 .dec) .execInit ⟨0, 0, 0, 0x1000, 8, 0xFFF9, 8⟩ 0 0 allocSlot encSlot
     s.Inv ∧ s.phase = .execInit ∧ decode s.latch.cmd = .ok (.init 0 .dec) ∧
       rangeOk s.params s.lIvAddr s.params.blockBytes = false) ∧
    let s := flying (.init 0 .dec) .execInit ⟨0, 0, 0, 0xFFFFFFF8, 8, 0x1010, 8⟩ 0 0 allocSlot encSlot
    s.Inv ∧ rangeOk s.params s.lKeyAddr s.params.keyBytes = false :=
  ⟨⟨init_inv _ (by constructor <;> decide), by decide, by decide, by decide⟩,
    init_inv _ (by constructor <;> decide), by decide⟩

/-- The first backend call of the run is the one that fails; and a backend that rejects the test key for decryption alone
(41_alloc_init.md R153). -/
theorem test_witness_KeyExpansionFailureFailsTheSlot :
    (let s := { midInit with params := weakKeyParams }
     keyRejected s.params .dec (readBytes s.mem s.lKeyAddr s.params.keyBytes) = true ∧
       keyRejected s.params .enc (readBytes s.mem s.lKeyAddr s.params.keyBytes) = false ∧
       oracleFails s.params.failures s.calls = false) ∧
    let s := { midInit with params := { toyParams with failures := .listed [0] } }
    s.phase = .execInit ∧ 0 < s.slots.length ∧ rangeOk s.params s.lIvAddr s.params.blockBytes = true ∧
    rangeOk s.params s.lKeyAddr s.params.keyBytes = true ∧ oracleFails s.params.failures s.calls = true := by decide

theorem test_witness_UpdateStartsItsBlocks :
    let s := flying (.update 0) .check (updateArgs 0x2000 0x3000 8) 0 0 encSlot freeSlot
    s.phase = .check ∧ s.params.wf = true ∧ s.UpdateReady 0 ∧ 0 < s.lLen :=
  ⟨by decide, by decide, by constructor <;> decide, by decide⟩

theorem test_witness_UpdateOfLengthZeroSucceeds :
    let s := flying (.update 0) .check (updateArgs 0xFFFFFFFF 0xFFFFFFFF 0) 0 0 encSlot freeSlot
    s.phase = .check ∧ 0 < s.params.numSlots ∧ (s.slot 0).state = .ready ∧ s.lLen = 0 := by decide

/-- The only block, and the first of two. -/
theorem test_witness_EncryptBlockStep :
    let s := fun nblk => flying (.update 0) .execBlock (updateArgs 0x2000 0x3000 16) nblk 0 encSlot freeSlot
    (s 1).phase = .execBlock ∧ Memory.wf (s 1).mem = true ∧ 0 < (s 1).slots.length ∧ ((s 1).slot 0).dir = .enc ∧
    rangeOk (s 1).params (s 1).blockIn (s 1).params.blockBytes = true ∧
    rangeOk (s 1).params (s 1).blockOut (s 1).params.blockBytes = true ∧
    oracleFails (s 1).params.failures (s 1).calls = false ∧ (s 1).latch.i + 1 = (s 1).latch.nblk ∧
    (s 2).latch.i + 1 ≠ (s 2).latch.nblk := by decide

theorem test_witness_DecryptBlockStep :
    let s := fun nblk => flying (.update 0) .execBlock (updateArgs 0x2000 0x2000 16) nblk 0 decSlot freeSlot
    (s 1).phase = .execBlock ∧ Memory.wf (s 1).mem = true ∧ 0 < (s 1).slots.length ∧ ((s 1).slot 0).dir = .dec ∧
    ((s 1).slot 0).cv.length = (s 1).params.blockBytes ∧
    rangeOk (s 1).params (s 1).blockIn (s 1).params.blockBytes = true ∧
    rangeOk (s 1).params (s 1).blockOut (s 1).params.blockBytes = true ∧
    oracleFails (s 1).params.failures (s 1).calls = false ∧ (s 1).latch.i + 1 = (s 1).latch.nblk ∧
    (s 2).latch.i + 1 ≠ (s 2).latch.nblk := by decide

/-- A read that crosses the last admitted byte, a backend failure, a write that crosses it. -/
theorem test_witness_BlockFailureKeepsTheChain :
    (let s := flying (.update 0) .execBlock (updateArgs 0xFFF9 0x3000 8) 1 0 encSlot freeSlot
     s.phase = .execBlock ∧ Memory.wf s.mem = true ∧ 0 < s.slots.length ∧
       rangeOk s.params s.blockIn s.params.blockBytes = false) ∧
    (let s := { midBlock with params := { toyParams with failures := .listed [0] } }
     rangeOk s.params s.blockIn s.params.blockBytes = true ∧ oracleFails s.params.failures s.calls = true) ∧
    (let s := flying (.update 0) .execBlock (updateArgs 0x2000 0xFFF9 8) 1 0 encSlot freeSlot
     rangeOk s.params s.blockIn s.params.blockBytes = true ∧ oracleFails s.params.failures s.calls = false ∧
       rangeOk s.params s.blockOut s.params.blockBytes = false) := by decide

theorem test_witness_FinalReleasesTheKeySchedule :
    let s := idle encSlot freeSlot
    0 < s.params.numSlots ∧ 0 < s.slots.length ∧ (s.slot 0).state = .ready := by decide

theorem test_witness_FreeErasesTheSlot :
    let s := idle failedSlot freeSlot
    0 < s.params.numSlots ∧ 0 < s.slots.length ∧ (s.slot 0).state ≠ .free := by decide

/-- A destination in each permitted state, and a self-copy. -/
theorem test_witness_CopyClonesTheSlot :
    let s := { idle encSlot allocSlot with slots := [encSlot, allocSlot, finalSlot, decSlot] }
    3 < s.params.numSlots ∧ 3 < s.slots.length ∧ (s.slot 0).state = .ready ∧ (s.slot 1).state = .allocated ∧
    (s.slot 2).state = .finalized ∧ (s.slot 3).state = .ready := by decide

/-! ### Frames -/

/-- One command of each kind that answers a next state, with a slot it does not write. -/
theorem test_witness_CommandsWriteOnlyTheirSlot :
    (exec .alloc (idle encSlot freeSlot) = .next (after (exec .alloc (idle encSlot freeSlot))) ∧
      (idle encSlot freeSlot).firstFree ≠ some 0) ∧
    exec (.copy 1 0) (idle encSlot allocSlot) = .next (after (exec (.copy 1 0) (idle encSlot allocSlot))) ∧ 0 ≠ 1 :=
  ⟨⟨exec_after _ _, by decide⟩, exec_after _ _, by decide⟩

theorem test_witness_CommandsLeaveTheHostsRegisters :
    exec (.update 0) midBlock = .next (after (exec (.update 0) midBlock)) ∧ Instr.update 0 ≠ .alloc :=
  ⟨exec_after _ _, by decide⟩

/-- A block step, a CHECK step of UPDATE, and another command. -/
theorem test_witness_CommandsStoreOnlyTheirBlock :
    (Memory.wf midBlock.mem = true ∧ exec (.update 0) midBlock = .next (after (exec (.update 0) midBlock)) ∧
      midBlock.phase = .execBlock) ∧
    (flying (.update 0) .check (updateArgs 0x2000 0x3000 8) 0 0 encSlot freeSlot).phase ≠ .execBlock ∧
    ∀ n, Instr.free 0 ≠ .update n :=
  ⟨⟨by decide, exec_after _ _, by decide⟩, by decide, fun _ h => (nomatch h)⟩

/-! ### The invariant and whole commands -/

/-- A step from every phase. -/
theorem test_witness_EveryStepKeepsTheInvariant :
    ((idle encSlot decSlot).Inv ∧ step (idle encSlot decSlot) = .next (after (step (idle encSlot decSlot)))) ∧
    (flying .alloc .check Args.zero 0 0 encSlot freeSlot).Inv ∧
    (flying (.init 0 .dec) .execInit initArgs 0 0 allocSlot encSlot).Inv ∧
    midBlock.Inv ∧ step midBlock = .next (after (step midBlock)) :=
  ⟨⟨idle_inv encSlot_ok decSlot_ok, step_after rfl⟩, check_inv _ _ encSlot_ok freeSlot_ok,
    init_inv _ (by constructor <;> decide), block_inv _ _ encSlot_ok (by constructor <;> decide), step_after rfl⟩

/-- With BACKEND_MAY_FAIL true: two blocks without a failure, and three whose third call fails. -/
theorem test_no_failure_of_two :
    State.NoFailure { flying (.update 0) .check (updateArgs 0x2000 0x3000 16) 0 0 encSlot freeSlot with
      params := weakKeyParams } 2 ∧
    ¬ State.NoFailure { midBlock with params := { toyParams with failures := .listed [2] } } 3 :=
  ⟨⟨by decide, by decide, by decide⟩, fun h => absurd (h.1 2 (by decide)) (by decide)⟩

/-- Two blocks with a disjoint destination. -/
theorem test_witness_UpdateEncryptsTheChain :
    let s := flying (.update 0) .check (updateArgs 0x2000 0x3000 16) 0 0 encSlot freeSlot
    s.Inv ∧ s.inputs = [] ∧ s.phase = .check ∧ decode s.latch.cmd = .ok (.update 0) ∧ s.UpdateReady 0 ∧
    (s.slot 0).dir = .enc ∧ s.NoFailure 2 ∧ s.lLen = 2 * s.params.blockBytes ∧ s.lSrcAddr + s.lLen ≤ s.lDstAddr :=
  ⟨check_inv _ _ encSlot_ok freeSlot_ok, rfl, rfl, by decide, by constructor <;> decide, by decide,
    ⟨by decide, by decide, by decide⟩, by decide, by decide⟩

/-- Two blocks in place. -/
theorem test_witness_UpdateDecryptsTheChain :
    let s := flying (.update 0) .check (updateArgs 0x2000 0x2000 16) 0 0 decSlot freeSlot
    s.Inv ∧ s.inputs = [] ∧ s.phase = .check ∧ decode s.latch.cmd = .ok (.update 0) ∧ s.UpdateReady 0 ∧
    (s.slot 0).dir = .dec ∧ s.NoFailure 2 ∧ s.lLen = 2 * s.params.blockBytes ∧ s.lDstAddr ≤ s.lSrcAddr :=
  ⟨check_inv _ _ decSlot_ok freeSlot_ok, rfl, rfl, by decide, by constructor <;> decide, by decide,
    ⟨by decide, by decide, by decide⟩, by decide, by decide⟩

/-- One block and one block, with a destination that later blocks read. -/
theorem test_witness_SplitUpdatesEqualOne :
    let s := idle encSlot freeSlot
    let t1 := after (stepN (1 + 1) (s.issueUpdate 0 0x2000 0x2004 8))
    s.Inv ∧ s.status.busy = false ∧ 0 < s.params.numSlots ∧ (s.slot 0).state = .ready ∧
    (s.issueUpdate 0 0x2000 0x2004 16).NoFailure (1 + 1) ∧ (8#32).toNat = 1 * s.params.blockBytes ∧
    (16#32).toNat = (8#32).toNat + (8#32).toNat ∧ (0x2000#32).toNat + (16#32).toNat ≤ 2 ^ 32 ∧
    stepN (1 + 1) (s.issueUpdate 0 0x2000 0x2004 8) = .next t1 ∧
    stepN (1 + 1) (t1.issueUpdate 0 (0x2000 + 8) (0x2004 + 8) 8) =
      .next (after (stepN (1 + 1) (t1.issueUpdate 0 (0x2000 + 8) (0x2004 + 8) 8))) ∧
    stepN (1 + 1 + 1) (s.issueUpdate 0 0x2000 0x2004 16) =
      .next (after (stepN (1 + 1 + 1) (s.issueUpdate 0 0x2000 0x2004 16))) :=
  ⟨idle_inv encSlot_ok freeSlot_ok, rfl, by decide, by decide, ⟨by decide, by decide, by decide⟩, by decide, by decide,
    by decide, stepN_after rfl _, stepN_after rfl _, stepN_after rfl _⟩

/-- TOY8 undoes itself (95_test_vectors.md section 1.1). -/
theorem toy_backendInverse : BackendInverse toyParams := by
  intro key x hk hx _ _
  obtain ⟨k0, k1, k2, k3, k4, k5, k6, k7, rfl⟩ : ∃ a b c d e f g h, key = [a, b, c, d, e, f, g, h] := by
    match key, hk with
    | [a, b, c, d, e, f, g, h], _ => exact ⟨a, b, c, d, e, f, g, h, rfl⟩
  obtain ⟨x0, x1, x2, x3, x4, x5, x6, x7, rfl⟩ : ∃ a b c d e f g h, x = [a, b, c, d, e, f, g, h] := by
    match x, hx with
    | [a, b, c, d, e, f, g, h], _ => exact ⟨a, b, c, d, e, f, g, h, rfl⟩
  simp [backendEncrypt, backendDecrypt, toyParams, Params.atReset, toyEncrypt, toyDecrypt, rotateLeft, rotateRight,
    natToBytes, fitBytes, backendExpand]

/-- Slots 0 and 1 with one key and one IV, encrypting and decrypting. -/
theorem test_witness_DecryptionRestoresThePlaintext :
    let s := idle encSlot decSlot
    let t := after (stepN (1 + 1) (s.issueUpdate 0 0x2000 0x3000 8))
    s.Inv ∧ s.status.busy = false ∧ BackendInverse s.params ∧ testKey.length = s.params.keyBytes ∧
    keyRejected s.params .enc testKey = false ∧ keyRejected s.params .dec testKey = false ∧
    1 < s.params.numSlots ∧ (s.slot 0).state = .ready ∧ (s.slot 0).dir = .enc ∧
    (s.slot 0).ks = backendExpand s.params .enc testKey ∧ (s.slot 1).state = .ready ∧ (s.slot 1).dir = .dec ∧
    (s.slot 1).ks = backendExpand s.params .dec testKey ∧ (s.slot 1).cv = (s.slot 0).cv ∧
    (8#32).toNat = 1 * s.params.blockBytes ∧ (0x2000#32).toNat + (8#32).toNat ≤ (0x3000#32).toNat ∧
    (0x3000#32).toNat + (8#32).toNat ≤ (0x4000#32).toNat ∧ (s.issueUpdate 0 0x2000 0x3000 8).NoFailure 1 ∧
    (t.issueUpdate 1 0x3000 0x4000 8).NoFailure 1 ∧ stepN (1 + 1) (s.issueUpdate 0 0x2000 0x3000 8) = .next t ∧
    stepN (1 + 1) (t.issueUpdate 1 0x3000 0x4000 8) =
      .next (after (stepN (1 + 1) (t.issueUpdate 1 0x3000 0x4000 8))) :=
  ⟨idle_inv encSlot_ok decSlot_ok, rfl, toy_backendInverse, by decide, by decide, by decide, by decide, by decide,
    by decide,
    testKs_expanded .enc, by decide, by decide, testKs_expanded .dec, by decide, by decide, by decide, by decide,
    ⟨by decide, by decide, by decide⟩, ⟨by decide, by decide, by decide⟩, stepN_after rfl _, stepN_after rfl _⟩

theorem test_witness_CloneContinuesLikeTheOriginal :
    let s := idle encSlot encSlot
    s.Inv ∧ s.status.busy = false ∧ 1 < s.params.numSlots ∧ s.slot 1 = s.slot 0 ∧ (s.slot 0).state = .ready ∧
    stepN 2 (s.issueUpdate 1 0x2000 0x3000 8) = .next (after (stepN 2 (s.issueUpdate 1 0x2000 0x3000 8))) ∧
    stepN 2 (s.issueUpdate 0 0x2000 0x3000 8) = .next (after (stepN 2 (s.issueUpdate 0 0x2000 0x3000 8))) :=
  ⟨idle_inv encSlot_ok encSlot_ok, rfl, by decide, by decide, by decide, stepN_after rfl _, stepN_after rfl _⟩

/-- Another key, the same slot but for its key schedule; an operation of each outcome. -/
def otherSlot : Slot := ⟨.ready, .enc, testIv, backendExpand toyParams .enc testIv⟩

theorem test_witness_KeySchedulesNeverReachTheHost :
    (idle encSlot freeSlot).Inv ∧ (idle otherSlot freeSlot).Inv ∧
    idle otherSlot freeSlot = { idle encSlot freeSlot with slots := (idle otherSlot freeSlot).slots } ∧
    (∀ n < 4, ∃ ks, (idle otherSlot freeSlot).slot n = { (idle encSlot freeSlot).slot n with ks := ks }) ∧
    (encSlot.ks ≠ otherSlot.ks) ∧
    (∃ t, hostStep (.readReg 0x40000080 .word) (idle encSlot freeSlot) = .next t) ∧
    hostStep (.readMem 0xFFFFFFFF 2) (idle encSlot freeSlot) = .fault .noSuchAddress ∧
    hostStep (.readReg 0x40000081 .word) (idle encSlot freeSlot) = .refused .registerAccess := by
  refine ⟨idle_inv encSlot_ok freeSlot_ok, idle_inv (Slot.ok_ready (by decide) (by decide) (by decide)) freeSlot_ok, rfl,
    fun n hn => ?_, by decide, ⟨_, rfl⟩, rfl, rfl⟩
  match n, hn with
  | 0, _ => exact ⟨otherSlot.ks, rfl⟩
  | 1, _ => exact ⟨0, rfl⟩
  | 2, _ => exact ⟨0, rfl⟩
  | 3, _ => exact ⟨0, rfl⟩

end Sys2Proof.Tests
end

/-! ## What one engine step of a command can leave -/

namespace Sys2Proof.Machine

/-- INIT's slot loaded and its buffers filled, right before the backend is called (41_alloc_init.md R143). -/
def State.initLoaded (s : State) (n : Nat) (d : Dir) : State :=
  loadIv n d (s.loadBuffers (readBytes s.mem s.lIvAddr s.params.blockBytes)
    (readBytes s.mem s.lKeyAddr s.params.keyBytes))

/-- Block L.I of slot `n` computed, stored and chained, before L.I counts on (42_update.md R161, R162, R167). -/
def State.blockStored (s : State) (n : Nat) : State :=
  setCv n (blockResult s.params (s.slot n) (readBytes s.mem s.blockIn s.params.blockBytes)).2
    (s.countCall.store s.blockOut
      (blockResult s.params (s.slot n) (readBytes s.mem s.blockIn s.params.blockBytes)).1)

section BlockStored

variable (s : State) (n : Nat)

@[simp] theorem blockStored_params : (s.blockStored n).params = s.params := by simp [State.blockStored, setCv]
@[simp] theorem blockStored_status : (s.blockStored n).status = s.status := by simp [State.blockStored, setCv]
@[simp] theorem blockStored_latch : (s.blockStored n).latch = s.latch := by simp [State.blockStored, setCv]
@[simp] theorem blockStored_phase : (s.blockStored n).phase = s.phase := by simp [State.blockStored, setCv]
@[simp] theorem blockStored_keybuf : (s.blockStored n).keybuf = s.keybuf := by simp [State.blockStored, setCv]
@[simp] theorem blockStored_ivbuf : (s.blockStored n).ivbuf = s.ivbuf := by simp [State.blockStored, setCv]
@[simp] theorem blockStored_length : (s.blockStored n).slots.length = s.slots.length := by
  simp [State.blockStored, setCv]

end BlockStored

/-- The slot of a block step after it: another CV, the rest kept. -/
theorem slot_blockStored {s : State} {n : Nat} (hn : n < s.slots.length) :
    (s.blockStored n).slot n = { s.slot n with
      cv := (blockResult s.params (s.slot n) (readBytes s.mem s.blockIn s.params.blockBytes)).2 } := by
  unfold State.blockStored setCv
  exact slot_setSlot_same _ _ hn

/-- Every state that one engine step of a command can leave, with what has decided it: the inversion of `exec`
(40_sequencer.md R122 to R126). -/
inductive CommandStep (s : State) : Instr → State → Prop where
  /-- A check fails (R123, R124). -/
  | rejected {i r c} (hr : r ≠ .success) (hl : legalPair r c = true) : CommandStep s i (s.complete r c)
  | allocated {n} (hf : s.firstFree = some n) : CommandStep s .alloc
      (((s.setSlot n (Slot.allocated s.params.blockBytes)).setResultSlot n).complete .success .none)
  | initChecked {n d} (hp : s.phase ≠ .execInit) (hr : s.InitReady n) : CommandStep s (.init n d) (s.enter .execInit)
  | initBusError {n d} (hp : s.phase = .execInit) : CommandStep s (.init n d) (s.fail n .busError)
  | initKeyError {n d} (hp : s.phase = .execInit) :
      CommandStep s (.init n d) ((s.initLoaded n d).countCall.fail n .keyExpand)
  | initDone {n d} (hp : s.phase = .execInit)
      (hk : keyRejected s.params d (readBytes s.mem s.lKeyAddr s.params.keyBytes) = false) :
      CommandStep s (.init n d) (((s.initLoaded n d).countCall.setSlot n
        { (s.initLoaded n d).slot n with
          ks := backendExpand s.params d (readBytes s.mem s.lKeyAddr s.params.keyBytes)
          state := .ready }).complete .success .none)
  | updateEmpty {n} (hp : s.phase ≠ .execBlock) (hr : s.UpdateReady n) (hn : s.lLen / s.params.blockBytes = 0) :
      CommandStep s (.update n) (s.setBlockCount.complete .success .none)
  | updateChecked {n} (hp : s.phase ≠ .execBlock) (hr : s.UpdateReady n) (hn : s.lLen / s.params.blockBytes ≠ 0) :
      CommandStep s (.update n) (s.setBlockCount.enter .execBlock)
  | blockReadError {n} (hp : s.phase = .execBlock) : CommandStep s (.update n) (s.fail n .busError)
  | blockXformError {n} (hp : s.phase = .execBlock) : CommandStep s (.update n) (s.countCall.fail n .blockXform)
  | blockWriteError {n} (hp : s.phase = .execBlock) : CommandStep s (.update n)
      ((s.countCall.scramble s.blockOut s.params.blockBytes).fail n .busError)
  | blockLast {n} (hp : s.phase = .execBlock) (ho : rangeOk s.params s.blockOut s.params.blockBytes = true)
      (hi : s.latch.i + 1 = s.latch.nblk) :
      CommandStep s (.update n) ((s.blockStored n).countBlock.complete .success .none)
  | blockNext {n} (hp : s.phase = .execBlock) (ho : rangeOk s.params s.blockOut s.params.blockBytes = true)
      (hi : s.latch.i + 1 ≠ s.latch.nblk) : CommandStep s (.update n) (s.blockStored n).countBlock
  | finalized {n} (hr : (s.slot n).state = .ready) :
      CommandStep s (.final n) ((s.setSlot n (s.slot n).finalizedKeep).complete .success .none)
  | freed {n} (hr : (s.slot n).state ≠ .free) :
      CommandStep s (.free n) ((s.setSlot n (Slot.erased s.params.blockBytes)).complete .success .none)
  | copiedSelf {n} (hr : (s.slot n).state = .ready) : CommandStep s (.copy n n) (s.complete .success .none)
  | copied {n r} (hne : n ≠ r) (hr : (s.slot r).state = .ready)
      (hd : (s.slot n).state = .allocated ∨ (s.slot n).state = .ready ∨ (s.slot n).state = .finalized) :
      CommandStep s (.copy n r) ((s.setSlot n { s.slot r with state := .ready }).complete .success .none)

theorem commandStep_execInit {n : Nat} {d : Dir} {s t : State} (h : execInit n d s = .next t) :
    CommandStep s (.init n d) t := by
  by_cases hp : s.phase = .execInit
  · obtain ⟨-, e⟩ | ⟨-, -, e⟩ := execInit_exec_cases n d hp <;> rw [e] at h <;> cases h
    · exact .initBusError hp
    · change CommandStep s _ (expandAndCommit n d (s.initLoaded n d))
      obtain ⟨-, e⟩ | ⟨hk, -, e⟩ := expandAndCommit_cases n d (s.initLoaded n d) <;> rw [e]
      · exact .initKeyError hp
      · exact .initDone hp hk
  · rw [execInit_check n d hp] at h
    cases h
    unfold runChecks
    obtain ⟨-, e⟩ | ⟨-, -, e⟩ | ⟨-, -, -, e⟩ | ⟨-, -, -, -, e⟩ | ⟨-, -, -, -, -, e⟩ | ⟨hr, e⟩ :=
      initChecks_cases n s <;> rw [e]
    on_goal 6 => exact .initChecked hp hr
    all_goals exact .rejected (by decide) rfl

theorem commandStep_execUpdate {n : Nat} {s t : State} (h : execUpdate n s = .next t) :
    CommandStep s (.update n) t := by
  by_cases hp : s.phase = .execBlock
  · rw [execUpdate_block n hp] at h
    cases h
    obtain ⟨-, e⟩ | ⟨-, -, e⟩ | ⟨-, -, -, e⟩ | ⟨-, -, ho, e⟩ := blockStep_cases n s <;> rw [e]
    · exact .blockReadError hp
    · exact .blockXformError hp
    · exact .blockWriteError hp
    · change CommandStep s _ (nextBlock (s.blockStored n))
      obtain ⟨hi, e⟩ | ⟨hi, e⟩ := nextBlock_cases (s.blockStored n) <;> rw [e]
      · exact .blockLast hp ho hi
      · exact .blockNext hp ho hi
  · rw [execUpdate_check n hp] at h
    cases h
    unfold runChecks
    obtain ⟨-, e⟩ | ⟨-, -, e⟩ | ⟨-, -, -, e⟩ | ⟨-, -, -, -, e⟩ | ⟨hr, e⟩ := updateChecks_cases n s <;> rw [e]
    on_goal 5 =>
      simp only [startBlocks]
      split
      · rename_i hn
        exact .updateEmpty hp hr hn
      · rename_i hn
        exact .updateChecked hp hr hn
    all_goals exact .rejected (by decide) rfl

/-- What an engine step of a command leaves is one of the states of `CommandStep`. -/
theorem commandStep_of_exec {i : Instr} {s t : State} (h : exec i s = .next t) : CommandStep s i t := by
  cases i with
  | alloc =>
    obtain ⟨-, e⟩ | ⟨n, hf, e⟩ := execAlloc_cases s <;> cases e.symm.trans h
    · exact .rejected (by decide) rfl
    · exact .allocated hf
  | init n d => exact commandStep_execInit h
  | update n => exact commandStep_execUpdate h
  | final n =>
    obtain ⟨-, e⟩ | ⟨-, -, e⟩ | ⟨-, hr, e⟩ := execFinal_cases n s <;> cases e.symm.trans h
    · exact .rejected (by decide) rfl
    · exact .rejected (by decide) rfl
    · exact .finalized hr
  | free n =>
    obtain ⟨-, e⟩ | ⟨-, -, e⟩ | ⟨-, hr, e⟩ := execFree_cases n s <;> cases e.symm.trans h
    · exact .rejected (by decide) rfl
    · exact .rejected (by decide) rfl
    · exact .freed hr
  | copy n r =>
    obtain ⟨-, e⟩ | ⟨-, -, -, e⟩ | ⟨-, -, hr, hd, e⟩ := execCopy_cases n r s <;> cases e.symm.trans h
    · exact .rejected (by decide) rfl
    · exact .rejected (by decide) rfl
    · unfold copyEffect
      split
      · subst_vars
        exact .copiedSelf hr
      · rename_i hne
        exact .copied hne hr hd

end Sys2Proof.Machine

/-! ## Frames of a command's step and of a machine step -/

namespace Sys2Proof.Machine

/-- A command's step ends the command, or it works on: STATUS, EVENT, the buffers and what was latched stay. -/
theorem CommandStep.ends_or_works {s t : State} {i : Instr} (h : CommandStep s i t) :
    s.completed t t.status.result t.status.cause ∨
      (s.sameHostSide t ∧ t.status = s.status ∧ t.event = s.event ∧ t.keybuf = s.keybuf ∧ t.ivbuf = s.ivbuf ∧
        t.latch.cmd = s.latch.cmd ∧ t.latch.args = s.latch.args) := by
  cases h
  case initChecked | updateChecked | blockNext =>
    exact .inr (by simp [State.sameHostSide, State.blockStored, setCv])
  all_goals exact .inl (by
    simp [State.completed, State.sameHostSide, State.initLoaded, loadIv, State.blockStored, setCv])

theorem CommandStep.sameHostSide {s t : State} {i : Instr} (h : CommandStep s i t) : s.sameHostSide t := by
  obtain ⟨-, -, -, -, -, -, -, -, hs⟩ | ⟨hs, -⟩ := h.ends_or_works <;> exact hs

/-- RESULT_SLOT stays, or the step is a successful ALLOC's, which writes the slot's index there (10_state.md R27). -/
theorem CommandStep.resultSlot {s t : State} {i : Instr} (h : CommandStep s i t) :
    t.status.resultSlot = s.status.resultSlot ∨
      ∃ n, i = .alloc ∧ s.firstFree = some n ∧ t.status = ⟨false, .success, .none, BitVec.ofNat 4 n⟩ := by
  cases h
  case allocated n hf => exact .inr ⟨n, rfl, hf, rfl⟩
  all_goals exact .inl rfl

/-- Slot `n` is the one that the command writes: the one it names, COPY's destination, the least FREE one for ALLOC
(10_state.md R30). -/
def State.targets (s : State) (i : Instr) (n : Nat) : Prop :=
  match i with
  | .alloc => s.firstFree = some n
  | .init m _ => m = n
  | .update m => m = n
  | .final m => m = n
  | .free m => m = n
  | .copy m _ => m = n

/-- A command's step writes at most its own slot. -/
theorem CommandStep.slots {s t : State} {i : Instr} (h : CommandStep s i t) :
    t.slots = s.slots ∨ ∃ n v, s.targets i n ∧ t.slots = s.slots.set n v := by
  cases h
  case rejected | initChecked | updateEmpty | updateChecked | copiedSelf => exact .inl rfl
  case allocated n hf => exact .inr ⟨n, _, hf, rfl⟩
  case initKeyError n d hp => exact .inr ⟨n, _, rfl, List.set_set ..⟩
  case initDone n d hp hk => exact .inr ⟨n, _, rfl, List.set_set ..⟩
  all_goals exact .inr ⟨_, _, rfl, rfl⟩

theorem CommandStep.slots_length {s t : State} {i : Instr} (h : CommandStep s i t) :
    t.slots.length = s.slots.length := by
  obtain e | ⟨n, v, -, e⟩ := h.slots <;> simp [e]

theorem CommandStep.slot_other {s t : State} {i : Instr} {m : Nat} (h : CommandStep s i t) (hm : ¬ s.targets i m) :
    t.slot m = s.slot m := by
  obtain ⟨hp, -⟩ := h.sameHostSide
  obtain e | ⟨n, v, hn, e⟩ := h.slots
  · exact slot_congr m e hp
  · have hne : n ≠ m := fun e => hm (e ▸ hn)
    exact (slot_congr (s := s.setSlot n v) m e hp).trans (slot_setSlot_other s v hne)

/-- What an engine step leaves: the state as it is, an illegal word completed, or a command's step. -/
theorem engineStep_commandStep {s t : State} (h : engineStep s = .next t) :
    ((s.status.busy = false ∨ s.phase = .idle) ∧ t = s) ∨
    (s.status.busy = true ∧ s.phase ≠ .idle ∧ (∃ e, decode s.latch.cmd = .error e) ∧
      t = s.complete .badParameters .illegalCmd) ∨
    (s.status.busy = true ∧ s.phase ≠ .idle ∧ ∃ i, decode s.latch.cmd = .ok i ∧ CommandStep s i t) := by
  obtain ⟨hi, e⟩ | ⟨hb, hp, he, e⟩ | ⟨hb, hp, i, hi, e⟩ := engineStep_cases s <;> rw [e] at h
  · cases h
    exact .inl ⟨hi, rfl⟩
  · cases h
    exact .inr (.inl ⟨hb, hp, he, rfl⟩)
  · exact .inr (.inr ⟨hb, hp, i, hi, commandStep_of_exec h⟩)

theorem engineStep_sameHostSide {s t : State} (h : engineStep s = .next t) : s.sameHostSide t := by
  obtain ⟨-, rfl⟩ | ⟨-, -, -, rfl⟩ | ⟨-, -, i, -, hc⟩ := engineStep_commandStep h
  · exact ⟨rfl, rfl, rfl, rfl, rfl, rfl, rfl⟩
  · exact ⟨rfl, rfl, rfl, rfl, rfl, rfl, rfl⟩
  · exact hc.sameHostSide

/-- The state at an agent's turn is the machine's but for the pending inputs. -/
theorem State.engineTurn.eq {s u : State} (h : s.engineTurn u) : ∃ rest, u = { s with inputs := rest } := by
  obtain ⟨-, rfl⟩ | ⟨rest, -, rfl⟩ := h
  · exact ⟨u.inputs, rfl⟩
  · exact ⟨rest, rfl⟩

/-- What a step of the machine can do, by the agent whose turn it is. -/
theorem step_agent {s t : State} (h : step s = .next t) :
    (∃ u, s.engineTurn u ∧ engineStep u = .next t) ∨
    (∃ op rest, s.inputs = .host op :: rest ∧ hostStep op { s with inputs := rest } = .next t) ∨
    (∃ rest, s.inputs = .reset :: rest ∧ t = State.platformReset { s with inputs := rest }) := by
  obtain ⟨hi, e⟩ | ⟨rest, hi, e⟩ | h | h := step_cases h
  · exact .inl ⟨s, .inl ⟨hi, rfl⟩, e⟩
  · exact .inl ⟨_, .inr ⟨rest, hi, rfl⟩, e⟩
  · exact .inr (.inl h)
  · exact .inr (.inr h)

@[simp] theorem abandonWrite_params (s : State) : s.abandonWrite.params = s.params := by
  obtain ⟨-, e⟩ | ⟨-, -, -, e⟩ | ⟨-, -, -, e⟩ := abandonWrite_cases s <;> simp [e]

/-- Every host operation keeps the parameters and the slot file; but for a register write it keeps every register of
the controller, the engine and the buffers as well. -/
theorem hostStep_frame {op : HostOp} {s t : State} (h : hostStep op s = .next t) :
    t.params = s.params ∧ t.slots = s.slots ∧ t.keybuf = s.keybuf ∧ t.ivbuf = s.ivbuf ∧
      ((∃ addr width v r, op = .writeReg addr width v ∧ windowAccess s addr width = .ok r ∧ t = s.writeReg r v) ∨
        (t.status = s.status ∧ t.event = s.event ∧ t.args = s.args ∧ t.latch = s.latch ∧ t.phase = s.phase)) := by
  obtain ⟨_, _, r, -, -, rfl⟩ | ⟨addr, width, v, r, hop, hw, rfl⟩ | ⟨a, n, -, -, rfl⟩ | ⟨a, bs, -, -, rfl⟩ |
    ⟨-, -, rfl⟩ | ⟨-, -, rfl⟩ := hostStep_cases h
  case inr.inl =>
    obtain ⟨hp, hs, -, hk, hv, -⟩ := writeReg_frame s r v
    exact ⟨hp, hs, hk, hv, .inl ⟨addr, width, v, r, hop, hw, rfl⟩⟩
  all_goals exact ⟨rfl, rfl, rfl, rfl, .inr ⟨rfl, rfl, rfl, rfl, rfl⟩⟩

/-- Settles O51: each command's step ends the command or works on, with a frame for both. -/
theorem commandsLeaveTheHostsRegisters : Obligations.CommandsLeaveTheHostsRegisters := by
  intro s t i h
  have hc := commandStep_of_exec h
  refine ⟨hc.sameHostSide, fun hi => ?_, hc.ends_or_works.imp_right And.right⟩
  obtain e | ⟨n, ha, -⟩ := hc.resultSlot
  · exact e
  · exact absurd ha hi

/-- Settles O50: each command's step writes at most the slot of its target. -/
theorem commandsWriteOnlyTheirSlot : Obligations.CommandsWriteOnlyTheirSlot := by
  intro s t i m h hm
  have hc := commandStep_of_exec h
  refine ⟨hc.slot_other ?_, hc.slots_length⟩
  cases i
  case alloc => exact hm
  all_goals exact Ne.symm hm

end Sys2Proof.Machine

/-! ## The invariant over every step -/

namespace Sys2Proof.Machine

/-- A key schedule, a CV and a direction from INIT's buffers make a good READY slot (41_alloc_init.md R149). -/
theorem slot_ok_initDone {s : State} {n : Nat} {d : Dir} (hn : n < s.slots.length)
    (hk : keyRejected s.params d (readBytes s.mem s.lKeyAddr s.params.keyBytes) = false) :
    Slot.Ok s.params { (s.initLoaded n d).slot n with
      ks := backendExpand s.params d (readBytes s.mem s.lKeyAddr s.params.keyBytes)
      state := .ready } := by
  rw [State.initLoaded, slot_loadIv d _ _ hn]
  exact Slot.ok_ready (length_readBytes ..) (length_readBytes ..) hk

theorem slot_ok_initFailed {s : State} {n : Nat} {d : Dir} (hn : n < s.slots.length) :
    Slot.Ok s.params ((s.initLoaded n d).slot n).failedKeep := by
  rw [State.initLoaded, slot_loadIv d _ _ hn]
  exact Slot.ok_failedKeep (length_readBytes ..)

/-- The output of a block step and the CV it leaves are one block long (42_update.md R161, R162). -/
theorem blockResult_length {p : Params} {t : Slot} {b : Bytes} (hcv : t.cv.length = p.blockBytes)
    (hb : b.length = p.blockBytes) :
    (blockResult p t b).1.length = p.blockBytes ∧ (blockResult p t b).2.length = p.blockBytes := by
  unfold blockResult
  cases t.dir <;> simp [hcv, hb]

/-- What the checks of UPDATE have established holds on in a state with the same parameters and latched arguments whose
slot is still READY. -/
theorem State.UpdateReady.congr {s t : State} {n : Nat} (h : s.UpdateReady n) (hp : t.params = s.params)
    (ha : t.latch.args = s.latch.args) (hs : (t.slot n).state = .ready) : t.UpdateReady n := by
  obtain ⟨hn, -, hd, hsrc, hdst⟩ := h
  refine ⟨hp ▸ hn, hs, ?_, ?_, ?_⟩ <;> simpa only [hp, State.lLen, State.lSrcAddr, State.lDstAddr, ha]

/-- A block stored keeps the slot invariants and the form of memory. -/
theorem blockStored_ok {s : State} {n : Nat} (h : s.Inv) (hr : (s.slot n).state = .ready)
    (ho : rangeOk s.params s.blockOut s.params.blockBytes = true) :
    (∀ t ∈ (s.blockStored n).slots, Slot.Ok s.params t) ∧ Memory.wf (s.blockStored n).mem = true ∧
      Memory.below (2 ^ 32) (s.blockStored n).mem = true := by
  have hok := slot_ok h.slots n
  obtain ⟨hout, hcv⟩ := blockResult_length (b := readBytes s.mem s.blockIn s.params.blockBytes) hok.cvLength
    (length_readBytes ..)
  have hend := rangeOk_end_le ho (blockBytes_pos h.params)
  exact ⟨slots_ok_set h.slots (Slot.ok_setCv hok hr hcv), wf_writeBytes h.memForm _ _,
    below_writeBytes h.memBound (by rw [hout]; exact hend)⟩

theorem inv_initChecked {s : State} {n : Nat} {d : Dir} (h : s.Inv) (hb : s.status.busy = true)
    (hi : decode s.latch.cmd = .ok (.init n d)) (hr : s.InitReady n) : (s.enter .execInit).Inv :=
  { h with
    phase :=
      { busyIff := by simp [hb]
        idle := fun hp => nomatch hp
        check := fun hp => nomatch hp
        execInit := fun _ => ⟨n, d, hi, { hr with }⟩
        execBlock := fun hp => nomatch hp } }

theorem inv_updateChecked {s : State} {n : Nat} (h : s.Inv) (hb : s.status.busy = true) (hp : s.phase = .check)
    (hi : decode s.latch.cmd = .ok (.update n)) (hr : s.UpdateReady n) (hn : s.lLen / s.params.blockBytes ≠ 0) :
    (s.setBlockCount.enter .execBlock).Inv :=
  { h with
    phase :=
      { busyIff := by simp [hb]
        idle := fun hp => nomatch hp
        check := fun hp => nomatch hp
        execInit := fun hp => nomatch hp
        execBlock := fun _ => ⟨n, hi, hr.congr rfl rfl hr.ready, rfl, by
          simpa [(h.phase.check hp).2] using Nat.pos_of_ne_zero hn⟩ } }

theorem inv_blockNext {s : State} {n : Nat} (h : s.Inv) (hp : s.phase = .execBlock)
    (hi : decode s.latch.cmd = .ok (.update n)) (hr : s.UpdateReady n)
    (ho : rangeOk s.params s.blockOut s.params.blockBytes = true) (hl : s.latch.i + 1 ≠ s.latch.nblk) :
    (s.blockStored n).countBlock.Inv := by
  obtain ⟨hs, hm, hmb⟩ := blockStored_ok h hr.ready ho
  obtain ⟨-, -, -, hnblk, hlt⟩ := h.phase.execBlock hp
  have hready : ((s.blockStored n).countBlock.slot n).state = .ready := by
    rw [slot_countBlock, slot_blockStored (h.slotCount ▸ hr.inRange)]
    exact hr.ready
  exact
  { params := by simpa using h.params
    slotCount := by simpa using h.slotCount
    slots := by simpa using hs
    memForm := by simpa using hm
    memBound := by simpa using hmb
    legal := by simpa using h.legal
    keybuf := by simpa using h.keybuf
    ivbuf := by simpa using h.ivbuf
    phase :=
      { busyIff := by simpa using h.phase.busyIff
        idle := by simp [hp]
        check := by simp [hp]
        execInit := by simp [hp]
        execBlock := fun _ => ⟨n, by simpa using hi, hr.congr (by simp) (by simp) hready,
          by simpa [State.lLen] using hnblk, by
            simp only [countBlock_latch, blockStored_latch]
            omega⟩ } }

/-- A completion that has touched neither the parameters nor memory keeps the invariant, its slots being good. -/
theorem inv_complete_of {s u : State} {r : ResultCode} {c : CauseCode} (h : s.Inv) (hp : u.params = s.params)
    (hm : u.mem = s.mem) (hn : u.slots.length = s.slots.length) (hs : ∀ t ∈ u.slots, Slot.Ok s.params t)
    (hl : legalPair r c = true) : (u.complete r c).Inv :=
  inv_complete (hp ▸ h.params) (by rw [hn, hp, h.slotCount]) (hp ▸ hs) (hm ▸ h.memForm) (hm ▸ h.memBound) hl

/-- In EXEC_INIT the command's slot is one that its checks have passed (40_sequencer.md R122). -/
theorem State.Inv.initReady {s : State} {n : Nat} {d : Dir} (h : s.Inv) (hp : s.phase = .execInit)
    (hi : decode s.latch.cmd = .ok (.init n d)) : s.InitReady n := by
  obtain ⟨m, e, hm, hr⟩ := h.phase.execInit hp
  cases hi.symm.trans hm
  exact hr

/-- In EXEC_BLOCK the command's slot is one that its checks have passed (40_sequencer.md R122). -/
theorem State.Inv.updateReady {s : State} {n : Nat} (h : s.Inv) (hp : s.phase = .execBlock)
    (hi : decode s.latch.cmd = .ok (.update n)) : s.UpdateReady n := by
  obtain ⟨m, hm, hr, -⟩ := h.phase.execBlock hp
  cases hi.symm.trans hm
  exact hr

/-- An UPDATE in flight outside EXEC_BLOCK is in its CHECK step. -/
theorem State.Inv.updateCheck {s : State} {n : Nat} (h : s.Inv) (hb : s.status.busy = true)
    (hp : s.phase ≠ .execBlock) (hi : decode s.latch.cmd = .ok (.update n)) : s.phase = .check := by
  cases hq : s.phase with
  | idle => exact absurd hq (h.phase.busyIff.1 hb)
  | check => rfl
  | execInit =>
    obtain ⟨m, d, hm, -⟩ := h.phase.execInit hq
    cases hi.symm.trans hm
  | execBlock => exact absurd hq hp

/-- Every engine step of the command in flight keeps the invariant. -/
theorem CommandStep.inv {s t : State} {i : Instr} (hc : CommandStep s i t) (h : s.Inv) (hb : s.status.busy = true)
    (hi : decode s.latch.cmd = .ok i) : t.Inv := by
  cases hc with
  | rejected _ hl => exact inv_complete_of h rfl rfl rfl h.slots hl
  | allocated _ => exact inv_complete_of h rfl rfl (by simp) (slots_ok_set h.slots (Slot.ok_allocated _)) rfl
  | initChecked _ hr => exact inv_initChecked h hb hi hr
  | initBusError _ => exact inv_fail h.params h.slotCount h.slots h.memForm h.memBound rfl
  | initKeyError hp =>
    have hn := h.slotCount ▸ (h.initReady hp hi).inRange
    refine inv_complete_of h rfl rfl (by simp [State.initLoaded, loadIv]) ?_ rfl
    rw [setSlot_slots, countCall_slots, State.initLoaded, slots_loadIv, List.set_set]
    exact slots_ok_set h.slots (slot_ok_initFailed hn)
  | initDone hp hk =>
    have hn := h.slotCount ▸ (h.initReady hp hi).inRange
    refine inv_complete_of h rfl rfl (by simp [State.initLoaded, loadIv]) ?_ rfl
    rw [setSlot_slots, countCall_slots, State.initLoaded, slots_loadIv, List.set_set]
    exact slots_ok_set h.slots (slot_ok_initDone hn hk)
  | updateEmpty _ _ _ => exact inv_complete_of h rfl rfl rfl h.slots rfl
  | updateChecked hp hr hn => exact inv_updateChecked h hb (h.updateCheck hb hp hi) hi hr hn
  | blockReadError _ => exact inv_fail h.params h.slotCount h.slots h.memForm h.memBound rfl
  | blockXformError _ => exact inv_fail h.params h.slotCount h.slots h.memForm h.memBound rfl
  | blockWriteError _ =>
    exact inv_fail h.params h.slotCount h.slots (wf_scrambleBytes h.memForm ..) (below_scrambleBytes h.memBound) rfl
  | blockLast hp ho _ =>
    obtain ⟨hs, hm, hmb⟩ := blockStored_ok h (h.updateReady hp hi).ready ho
    exact inv_complete (by simpa using h.params) (by simpa using h.slotCount) (by simpa using hs) (by simpa using hm)
      (by simpa using hmb) rfl
  | blockNext hp ho hl => exact inv_blockNext h hp hi (h.updateReady hp hi) ho hl
  | finalized _ =>
    exact inv_complete_of h rfl rfl (by simp)
      (slots_ok_set h.slots (Slot.ok_finalizedKeep (slot_ok h.slots _).cvLength)) rfl
  | freed _ => exact inv_complete_of h rfl rfl (by simp) (slots_ok_set h.slots (Slot.ok_erased _)) rfl
  | copiedSelf _ => exact inv_complete_of h rfl rfl rfl h.slots rfl
  | copied _ hr _ =>
    refine inv_complete_of h rfl rfl (by simp) (slots_ok_set h.slots ?_) rfl
    rw [← hr]
    exact slot_ok h.slots _

theorem inv_engineStep {s t : State} (h : s.Inv) (hs : engineStep s = .next t) : t.Inv := by
  obtain ⟨-, rfl⟩ | ⟨-, -, -, rfl⟩ | ⟨hb, -, i, hi, hc⟩ := engineStep_commandStep hs
  · exact h
  · exact inv_complete_of h rfl rfl rfl h.slots rfl
  · exact hc.inv h hb hi

/-- A command accepted: its CHECK step comes next (40_sequencer.md R120). -/
theorem inv_accept {s : State} (h : s.Inv) (w : Word) : (s.accept w).Inv :=
  { h with
    phase :=
      { busyIff := by simp
        idle := fun hp => nomatch hp
        check := fun _ => ⟨rfl, rfl⟩
        execInit := fun hp => nomatch hp
        execBlock := fun hp => nomatch hp } }

/-- Changes of EVENT, IRQ_EN, the argument registers, CV_SEL and the agents' own fields do not touch the invariant. -/
theorem State.Inv.hostFields {s : State} (h : s.Inv) (event : EventReg) (irqEn : IrqEnable) (args : Args)
    (cvSel : BitVec 4) (inputs : List Input) (resp : Response) (draws : Nat) :
    State.Inv { s with event, irqEn, args, cvSel, inputs, resp, draws } :=
  inv_congr h rfl rfl h.memForm h.memBound rfl rfl rfl rfl rfl

theorem inv_writeReg {s : State} (h : s.Inv) (r : Reg) (v : Word) : (s.writeReg r v).Inv := by
  cases r
  case cmd =>
    simp only [State.writeReg, State.writeCmd]
    split
    · exact h.hostFields ..
    · exact inv_accept h v
  all_goals exact h.hostFields ..

theorem inv_hostStep {op : HostOp} {s t : State} (h : s.Inv) (hs : hostStep op s = .next t) : t.Inv := by
  obtain ⟨_, _, r, -, -, rfl⟩ | ⟨_, _, v, r, -, -, rfl⟩ | ⟨a, n, -, -, rfl⟩ | ⟨a, bs, -, hw, rfl⟩ | ⟨-, -, rfl⟩ |
    ⟨-, -, rfl⟩ := hostStep_cases hs
  case inr.inl => exact inv_writeReg h r v
  case inr.inr.inr.inl =>
    exact inv_congr h rfl rfl (wf_writeBytes h.memForm a bs) (below_writeBytes h.memBound (hostMemStop_none hw)) rfl rfl
      rfl rfl rfl
  all_goals exact h.hostFields ..

/-- What a reset leaves of memory is in canonical form (70_reset_and_hazards.md R272). -/
theorem abandonWrite_memForm {s : State} (h : s.Inv) :
    Memory.wf s.abandonWrite.mem = true ∧ Memory.below (2 ^ 32) s.abandonWrite.mem = true := by
  obtain ⟨-, e⟩ | ⟨-, -, -, e⟩ | ⟨-, -, -, e⟩ := abandonWrite_cases s <;> rw [e]
  · exact ⟨h.memForm, h.memBound⟩
  · exact ⟨h.memForm, h.memBound⟩
  · exact ⟨wf_scrambleBytes h.memForm .., below_scrambleBytes h.memBound⟩

/-- Every state with its controller cleared meets the invariant, given good parameters and memory. -/
theorem inv_clearController {s : State} (hp : s.params.wf = true) (hm : Memory.wf s.mem = true)
    (hb : Memory.below (2 ^ 32) s.mem = true) : s.clearController.Inv where
  params := hp
  slotCount := List.length_replicate ..
  slots := fun _ ht => (List.eq_of_mem_replicate ht) ▸ Slot.ok_erased _
  memForm := hm
  memBound := hb
  legal := rfl
  keybuf := rfl
  ivbuf := rfl
  phase :=
    { busyIff := ⟨fun h => (nomatch h), fun h => absurd rfl h⟩
      idle := fun _ => rfl
      check := fun h => nomatch h
      execInit := fun h => nomatch h
      execBlock := fun h => nomatch h }

theorem inv_platformReset {s : State} (h : s.Inv) : s.platformReset.Inv := by
  obtain ⟨hm, hb⟩ := abandonWrite_memForm h
  exact inv_clearController (by rw [abandonWrite_params]; exact h.params) hm hb

/-- Settles O54: by the agent whose turn it is, for the engine by the states a command's step can leave. -/
theorem everyStepKeepsTheInvariant : Obligations.EveryStepKeepsTheInvariant := by
  intro s t h hs
  obtain ⟨u, hu, he⟩ | ⟨op, rest, -, ho⟩ | ⟨rest, -, rfl⟩ := step_agent hs
  · obtain ⟨rest, rfl⟩ := hu.eq
    exact inv_engineStep (h.hostFields ..) he
  · exact inv_hostStep (h.hostFields ..) ho
  · exact inv_platformReset (h.hostFields ..)

/-- Settles O53: the state after reset is one with its controller cleared, and the parameters of log entry 1 are in
their bounds. -/
theorem resetMeetsTheInvariant : Obligations.ResetMeetsTheInvariant :=
  inv_clearController (s := State.reset) rfl rfl rfl

end Sys2Proof.Machine

/-! ## What a machine step leaves of the registers -/

namespace Sys2Proof.Machine

/-- What an engine step does to BUSY, EVENT.DONE and RESULT_SLOT: it ends a command and sets DONE, or keeps STATUS. -/
theorem engineStep_status {s t : State} (h : engineStep s = .next t) :
    (t.status.busy = false ∧ t.event.done = true) ∨ t.status = s.status := by
  obtain ⟨-, rfl⟩ | ⟨-, -, -, rfl⟩ | ⟨-, -, i, -, hc⟩ := engineStep_commandStep h
  · exact .inr rfl
  · exact .inl ⟨rfl, rfl⟩
  · obtain ⟨hb, -, -, hd, -⟩ | ⟨-, hst, -⟩ := hc.ends_or_works
    · exact .inl ⟨hb, hd⟩
    · exact .inr hst

theorem step_params {s t : State} (h : step s = .next t) : t.params = s.params := by
  obtain ⟨u, hu, he⟩ | ⟨op, rest, -, ho⟩ | ⟨rest, -, rfl⟩ := step_agent h
  · obtain ⟨rest, rfl⟩ := hu.eq
    exact (engineStep_sameHostSide he).1
  · exact (hostStep_frame ho).1
  · exact abandonWrite_params _

/-- The register at offset 0 of the window is CMD, and no other is (10_state.md R21). -/
theorem regAt_eq_cmd {off : Nat} : regAt off = .cmd ↔ off = 0 := by
  constructor
  · unfold regAt
    split <;> try split
    all_goals simp
  · rintro rfl
    rfl

theorem windowRegion_covers {p : Params} {a : Nat} :
    Region.covers (windowRegion p) a = true ↔ p.base ≤ a ∧ a < p.base + 256 := by
  unfold Region.covers
  rw [Bool.and_eq_true, decide_eq_true_eq, decide_eq_true_eq]
  rfl

/-- An access to CMD is an aligned 32-bit one at BASE (10_state.md R20, 20_memory.md R67). -/
theorem windowAccess_eq_cmd {s : State} {addr : Nat} {width : AccessWidth} (h : windowAccess s addr width = .ok .cmd) :
    addr = s.params.base ∧ width = .word := by
  unfold windowAccess at h
  split at h
  · cases h
  · rename_i hcov
    split at h
    · cases h
    · rename_i hal
      rw [not_not, windowRegion_covers] at hcov
      simp only [not_or, not_not] at hal
      have := regAt_eq_cmd.1 (Except.ok.inj h)
      exact ⟨by omega, hal.1⟩

/-- A register write that is no CMD write keeps STATUS. -/
theorem writeReg_status {s : State} {r : Reg} (v : Word) (hr : r ≠ .cmd) : (s.writeReg r v).status = s.status := by
  cases r
  case cmd => exact absurd rfl hr
  all_goals rfl

/-- A CMD write keeps STATUS while BUSY = 1 and accepts the word while BUSY = 0 (40_sequencer.md R120, R121). -/
theorem writeReg_cmd_cases (s : State) (v : Word) :
    (s.status.busy = true ∧ s.writeReg .cmd v = s.noteOverrun) ∨
      (s.status.busy = false ∧ s.writeReg .cmd v = s.accept v) := by
  simp only [State.writeReg, State.writeCmd]
  cases h : s.status.busy <;> simp

/-- A host operation keeps STATUS, or it is a CMD write that is accepted. -/
theorem hostStep_status {op : HostOp} {s t : State} (h : hostStep op s = .next t) :
    t.status = s.status ∨
      ∃ w, op = .writeReg s.params.base .word w ∧ s.status.busy = false ∧ t = s.accept w := by
  obtain ⟨-, -, -, -, ⟨addr, width, v, r, rfl, hw, rfl⟩ | ⟨hst, -⟩⟩ := hostStep_frame h
  · by_cases hr : r = .cmd
    · subst hr
      obtain ⟨rfl, rfl⟩ := windowAccess_eq_cmd hw
      obtain ⟨-, e⟩ | ⟨hb, e⟩ := writeReg_cmd_cases s v
      · exact .inl (by rw [e]; rfl)
      · exact .inr ⟨v, rfl, hb, e⟩
    · exact .inl (writeReg_status v hr)
  · exact .inl hst

/-- Settles O13: by the frames of the engine's steps and of the host's operations. -/
theorem argumentRegistersBelongToTheHost : Obligations.ArgumentRegistersBelongToTheHost := by
  refine ⟨fun s v => ⟨rfl, rfl, rfl, rfl, rfl, rfl, rfl, rfl, rfl, rfl, rfl, rfl, rfl, rfl⟩, fun s t h hne => ?_⟩
  obtain ⟨u, hu, he⟩ | ⟨op, rest, hi, ho⟩ | ⟨rest, hi, -⟩ := step_agent h
  · obtain ⟨rest, rfl⟩ := hu.eq
    obtain ⟨-, ha, -⟩ := engineStep_sameHostSide he
    exact absurd ha hne
  · obtain ⟨-, -, -, -, ⟨addr, width, v, r, rfl, -⟩ | ⟨-, -, ha, -⟩⟩ := hostStep_frame ho
    · exact .inl ⟨addr, width, v, rest, hi⟩
    · exact absurd ha hne
  · exact .inr ⟨rest, hi⟩

/-- Settles O14: by the one case of a host operation that is a register read. -/
theorem registerReadsHaveNoEffect : Obligations.RegisterReadsHaveNoEffect := by
  intro s t addr width h
  obtain ⟨_, _, r, -, -, rfl⟩ | ⟨_, _, _, _, hop, -⟩ | ⟨_, _, hop, -⟩ | ⟨_, _, hop, -⟩ | ⟨hop, -⟩ | ⟨hop, -⟩ :=
    hostStep_cases h
  case inl => exact ⟨rfl, fun hb => by simp [State.respond, hb]⟩
  all_goals cases hop

/-- Settles O30: an engine step ends a command or keeps STATUS, and a host changes it by an accepted CMD write alone. -/
theorem busyChangesInTwoPlacesOnly : Obligations.BusyChangesInTwoPlacesOnly := by
  intro s t h
  obtain ⟨u, hu, he⟩ | ⟨op, rest, hi, ho⟩ | ⟨rest, hi, rfl⟩ := step_agent h
  · obtain ⟨rest, rfl⟩ := hu.eq
    obtain ⟨hb, hd⟩ | hst := engineStep_status he
    · exact ⟨fun _ hb' => (nomatch hb.symm.trans hb'), fun _ _ => .inr ⟨⟨_, hu⟩, hd⟩⟩
    · rw [hst]
      exact ⟨fun h0 h1 => (nomatch h0.symm.trans h1), fun h1 h0 => (nomatch h0.symm.trans h1)⟩
  · obtain hst | ⟨w, rfl, -, rfl⟩ := hostStep_status ho
    · rw [hst]
      exact ⟨fun h0 h1 => (nomatch h0.symm.trans h1), fun h1 h0 => (nomatch h0.symm.trans h1)⟩
    · exact ⟨fun _ _ => ⟨w, rest, hi, rfl, rfl⟩, fun _ h0 => (nomatch h0)⟩
  · exact ⟨fun _ h1 => (nomatch h1), fun _ _ => .inl ⟨rest, hi⟩⟩

/-- Settles O32: of all the states a command's step can leave, ALLOC's success alone has another RESULT_SLOT. -/
theorem resultSlotIsWrittenByAllocOnly : Obligations.ResultSlotIsWrittenByAllocOnly := by
  constructor
  · intro s n hf
    obtain ⟨hn, -⟩ := firstFree_eq_some.1 hf
    obtain ⟨h0, -⟩ | ⟨m, hm, e⟩ := execAlloc_cases s
    · exact nomatch h0.symm.trans hf
    · cases hm.symm.trans hf
      exact ⟨_, e, rfl, rfl, by rw [slot_complete, slot_setResultSlot, slot_setSlot_same s _ hn]; rfl⟩
  · intro s t h hne
    obtain ⟨u, hu, he⟩ | ⟨op, rest, hi, ho⟩ | ⟨rest, hi, -⟩ := step_agent h
    · obtain ⟨rest, rfl⟩ := hu.eq
      obtain ⟨-, rfl⟩ | ⟨-, -, -, rfl⟩ | ⟨-, -, i, hi, hc⟩ := engineStep_commandStep he
      · exact absurd rfl hne
      · exact absurd rfl hne
      · obtain e | ⟨n, rfl, hf, e⟩ := hc.resultSlot
        · exact absurd e hne
        · rw [e]
          exact .inr ⟨⟨_, hu⟩, hi, rfl, rfl, rfl, n, hf, rfl⟩
    · obtain hst | ⟨w, -, -, rfl⟩ := hostStep_status ho
      · exact absurd (congrArg Status.resultSlot hst) hne
      · exact absurd rfl hne
    · exact .inl ⟨rest, hi⟩

end Sys2Proof.Machine

/-! ## The fields of the register words -/

namespace Sys2Proof.Machine

/-- A field of a word that is given as a number: the digit there, for any field inside the word. -/
theorem field_ofNat (x : Nat) {hi lo : Nat} (h1 : lo ≤ hi) (h2 : hi < 32) :
    field (BitVec.ofNat 32 x) hi lo = x / 2 ^ lo % 2 ^ (hi - lo + 1) := by
  unfold field
  rw [BitVec.extractLsb_toNat, BitVec.toNat_ofNat, Nat.shiftRight_eq_div_pow]
  apply Nat.eq_of_testBit_eq
  intro j
  simp only [Nat.testBit_mod_two_pow, Nat.testBit_div_two_pow]
  by_cases hj : j < hi - lo + 1
  · have : j + lo < 32 := by omega
    simp [this]
  · simp [hj]

/-- Digit `k` of a number given by its digits; 0 beyond them. -/
theorem digits_div_mod {base : Nat} {l : List Nat} (h : ∀ c ∈ l, c < base) (k : Nat) :
    digits base l / base ^ k % base = l.getD k 0 := by
  induction l generalizing k with
  | nil => simp [digits]
  | cons c rest ih =>
    have hc : c < base := h c (by simp)
    cases k with
    | zero => simp [digits, Nat.mod_eq_of_lt hc]
    | succ k =>
      have hdiv : (c + base * digits base rest) / base = digits base rest := by
        rw [Nat.add_mul_div_left _ _ (by omega), Nat.div_eq_of_lt hc, Nat.zero_add]
      rw [digits, pow_succ', ← Nat.div_div_eq_div_mul, hdiv, ih (fun d hd => h d (List.mem_cons_of_mem _ hd))]
      rfl

/-- A number of `l.length` digits. -/
theorem digits_lt {base : Nat} {l : List Nat} (h : ∀ c ∈ l, c < base) : digits base l < base ^ l.length := by
  induction l with
  | nil => simp [digits]
  | cons c rest ih =>
    have hc : c < base := h c (by simp)
    have hrest := ih fun d hd => h d (List.mem_cons_of_mem _ hd)
    calc c + base * digits base rest < base * (digits base rest + 1) := by rw [Nat.mul_add]; omega
      _ ≤ base * base ^ rest.length := Nat.mul_le_mul_left _ hrest
      _ = base ^ (rest.length + 1) := (pow_succ' ..).symm

/-- Digit `k` of a register word of `w`-bit digits. -/
theorem field_digits {base w k : Nat} {l : List Nat} (hb : base = 2 ^ w) (h : ∀ c ∈ l, c < base) (hw : 0 < w)
    (hk : w * k + w ≤ 32) : field (BitVec.ofNat 32 (digits base l)) (w * k + (w - 1)) (w * k) = l.getD k 0 := by
  subst hb
  rw [field_ofNat _ (by omega) (by omega), show w * k + (w - 1) - w * k + 1 = w by omega, pow_mul]
  exact digits_div_mod h k

theorem resultCode_lt (r : ResultCode) : r.code < 2 ^ 4 := by cases r <;> decide
theorem causeCode_lt (c : CauseCode) : c.code < 2 ^ 8 := by cases c <;> decide
theorem slotStateCode_lt (t : SlotState) : t.code < 16 := by cases t <;> decide
theorem dirBit_lt (d : Dir) : d.bit < 2 := by cases d <;> decide

/-- The fields of STATUS (10_state.md R23). -/
theorem status_fields (t : Status) :
    field t.word 0 0 = t.busy.toNat ∧ field t.word 3 1 = 0 ∧ field t.word 7 4 = t.result.code ∧
      field t.word 15 8 = t.cause.code ∧ field t.word 19 16 = t.resultSlot.toNat ∧ field t.word 31 20 = 0 := by
  have hb := t.busy.toNat_le
  have hr := resultCode_lt t.result
  have hc := causeCode_lt t.cause
  have hs := t.resultSlot.isLt
  unfold Status.word
  refine ⟨?_, ?_, ?_, ?_, ?_, ?_⟩ <;> rw [field_ofNat _ (by decide) (by decide)] <;> omega

/-- The fields of a register of two flags: EVENT and IRQ_EN (10_state.md R28, R29). -/
theorem flags_fields (a b : Bool) :
    field (BitVec.ofNat 32 (a.toNat + b.toNat * 2)) 0 0 = a.toNat ∧
      field (BitVec.ofNat 32 (a.toNat + b.toNat * 2)) 1 1 = b.toNat ∧
      field (BitVec.ofNat 32 (a.toNat + b.toNat * 2)) 31 2 = 0 := by
  have ha := a.toNat_le
  have hb := b.toNat_le
  refine ⟨?_, ?_, ?_⟩ <;> rw [field_ofNat _ (by decide) (by decide)] <;> omega

/-- The fields of PARAM for parameters in their bounds (10_state.md R40). -/
theorem param_fields {p : Params} (h : p.wf = true) :
    field (paramWord p) 7 0 = p.blockBytes ∧ field (paramWord p) 15 8 = p.keyBytes ∧
      field (paramWord p) 20 16 = p.numSlots ∧ field (paramWord p) 31 21 = 0 := by
  simp only [Params.wf, Bool.and_eq_true, decide_eq_true_eq] at h
  unfold paramWord
  refine ⟨?_, ?_, ?_, ?_⟩ <;> rw [field_ofNat _ (by decide) (by decide)] <;> omega

/-- A 4-bit value shown in a register: the bits above read 0. -/
theorem field_setWidth_four (c : BitVec 4) : field (c.setWidth 32) 31 4 = 0 := by
  have hc := c.isLt
  rw [← BitVec.ofNat_toNat, field_ofNat _ (by decide) (by decide)]
  omega

/-- The window's offsets (10_state.md R21). -/
theorem regAt_window {off : Nat} (h : 0x080 ≤ off ∧ off < 0x100) : regAt off = .cvWin ((off - 0x080) / 4) := by
  unfold regAt
  split
  case h_18 => exact if_pos h
  all_goals omega

/-- The offsets between the registers (10_state.md R44). -/
theorem regAt_reserved {off : Nat} (h : off = 0x02C ∨ off = 0x03C ∨ (0x04C ≤ off ∧ off ≤ 0x07C)) :
    regAt off = .reserved := by
  have hout : ¬ (0x080 ≤ off ∧ off < 0x100) := by omega
  unfold regAt
  split
  case h_18 => exact if_neg hout
  all_goals omega

/-- An aligned 32-bit access to the window reaches the register at its offset (10_state.md R20). -/
theorem windowAccess_word (s : State) {off : Nat} (h : off < 256) (ha : off % 4 = 0) :
    windowAccess s (s.params.base + off) .word = .ok (regAt off) := by
  simp [windowAccess, windowRegion_covers, h, ha]

/-- Settles O19: PARAM depends on the parameters alone, which every step keeps. -/
theorem paramAndIdAreConstant : Obligations.ParamAndIdAreConstant := by
  intro s
  refine ⟨param_fields, rfl, fun t h => ?_⟩
  have hp := step_params h
  exact ⟨hp, congrArg paramWord hp⟩

/-- Settles O15: by the register at each such offset and the fields of the register words. -/
theorem reservedSpaceIsInert : Obligations.ReservedSpaceIsInert := by
  intro s
  obtain ⟨-, h3, -, -, -, h31⟩ := status_fields s.status
  obtain ⟨-, -, hev⟩ := flags_fields s.event.done s.event.overrun
  obtain ⟨-, -, hirq⟩ := flags_fields s.irqEn.doneEn s.irqEn.overrunEn
  refine ⟨fun off _ h => ?_, rfl, fun off _ h v => ?_, h3, h31, hev, hirq, field_setWidth_four s.cvSel, fun hp => ?_⟩
  · rw [regAt_reserved h]
    exact ⟨rfl, fun _ => rfl⟩
  · rcases h with rfl | rfl | rfl | rfl | rfl | rfl | ⟨h1, h2⟩
    case inr.inr.inr.inr.inr.inr =>
      rw [regAt_window ⟨h1, by omega⟩]
      rfl
    all_goals rfl
  · obtain ⟨-, -, -, hres⟩ := param_fields hp
    exact hres

/-- Settles O6: each by evaluation; the slots are copies of the erased one. -/
theorem resetLeavesTheStatedValues : Obligations.ResetLeavesTheStatedValues := by
  refine ⟨rfl, rfl, rfl, rfl, rfl, rfl, fun n hn => ?_, rfl, rfl, rfl, rfl, rfl, rfl, rfl⟩
  exact List.eq_of_mem_replicate (slot_mem State.reset hn)

/-- Settles O9: by the fields of the STATUS word. -/
theorem statusShowsItsFields : Obligations.StatusShowsItsFields := by
  refine ⟨rfl, by decide, by decide, fun s => ?_⟩
  obtain ⟨h0, h3, h7, h15, h19, h31⟩ := status_fields s.status
  exact ⟨h0, h3, h7, h15, h19, h31, fun _ => rfl⟩

/-- Settles O10: by the fields of the EVENT word and the two outcomes of a CMD write. -/
theorem eventIsWriteOneToClear : Obligations.EventIsWriteOneToClear := by
  refine ⟨rfl, fun s v => ?_⟩
  obtain ⟨h0, h1, h31⟩ := flags_fields s.event.done s.event.overrun
  refine ⟨rfl, h0, h1, h31, fun _ _ => rfl, fun hb => ?_, ?_⟩
  · obtain ⟨-, e⟩ | ⟨hb', -⟩ := writeReg_cmd_cases s v
    · rw [e]
      rfl
    · exact nomatch hb.symm.trans hb'
  · rw [hostStep, hostReadReg, windowAccess_word s (by decide) (by decide)]
    rfl

/-- The two low bits of a word, as IRQ_EN holds them (10_state.md R29). -/
theorem irqEnableOfWord_word (v : Word) : (irqEnableOfWord v).word = v &&& 3#32 := by
  have h0 : (v.getLsbD 0).toNat = v.toNat % 2 := by
    simp [BitVec.getLsbD, Nat.testBit_zero]
    rcases Nat.mod_two_eq_zero_or_one v.toNat with h | h <;> simp [h]
  have h1 : (v.getLsbD 1).toNat = v.toNat / 2 % 2 := by
    rw [BitVec.getLsbD, Nat.toNat_testBit]
  have h3 : v.toNat &&& 3 = v.toNat % 2 ^ 2 := Nat.and_two_pow_sub_one_eq_mod v.toNat 2
  apply BitVec.eq_of_toNat_eq
  rw [IrqEnable.word, irqEnableOfWord, BitVec.toNat_and, BitVec.toNat_ofNat, h0, h1, show (3#32).toNat = 3 from rfl, h3]
  omega

/-- Settles O11: by the two low bits of the word written. -/
theorem irqEnableKeepsTwoBits : Obligations.IrqEnableKeepsTwoBits := by
  refine ⟨rfl, fun s v => ⟨?_, ?_, _, rfl⟩⟩
  · exact irqEnableOfWord_word v
  · simp [State.irq, State.writeReg, irqEnableOfWord]

/-- The low four bits of a word, as CV_SEL holds them (10_state.md R42). -/
theorem cvSel_word (v : Word) : (v.setWidth 4).setWidth 32 = v &&& 15#32 := by
  have h15 : v.toNat &&& 15 = v.toNat % 2 ^ 4 := Nat.and_two_pow_sub_one_eq_mod v.toNat 4
  apply BitVec.eq_of_toNat_eq
  rw [BitVec.toNat_and, BitVec.toNat_setWidth, BitVec.toNat_setWidth, show (15#32).toNat = 15 from rfl, h15]
  omega

/-- Where R43 leaves the read exact, the window shows the selected slot's CV. -/
theorem readReg_cvWin {s : State} {m : Nat} (h : s.status.busy = false ∨ s.namesSlot s.cvSel.toNat = false) :
    s.readReg (.cvWin m) = s.cvWord s.cvSel.toNat m := by
  unfold State.readReg State.readCvWin
  rcases h with h | h <;> simp [h]

theorem cvByte_lt (s : State) (n j : Nat) : s.cvByte n j < 256 := by
  unfold State.cvByte
  split
  · exact BitVec.isLt _
  · decide

/-- Byte `i` of CV_WIN[m] (10_state.md R42, 20_memory.md R65). -/
theorem cvWord_byte (s : State) (n m : Nat) {i : Nat} (hi : i < 4) :
    field (s.cvWord n m) (8 * i + 7) (8 * i) = s.cvByte n (4 * m + i) := by
  refine (field_digits (w := 8) rfl (by simp [cvByte_lt]) (by decide) (by omega)).trans ?_
  interval_cases i <;> rfl

/-- Settles O17: by the bytes of the window's word. -/
theorem cvWindowShowsTheSelectedCv : Obligations.CvWindowShowsTheSelectedCv := by
  intro s m i hm hi
  refine ⟨fun v => ⟨?_, ⟨_, rfl⟩, rfl⟩, fun hopen => ?_⟩
  · exact cvSel_word v
  · rw [regAt_window (by omega), show (0x080 + 4 * m - 0x080) / 4 = m by omega, readReg_cvWin hopen,
      cvWord_byte s _ m hi]
    rfl

end Sys2Proof.Machine

/-! ## The slot registers and the slots a command in flight names -/

namespace Sys2Proof.Machine

/-- The command in flight names the slots that its step can write (log entry 13). -/
theorem namesSlot_of_targets {s : State} {i : Instr} {k : Nat} (hi : decode s.latch.cmd = .ok i)
    (h : s.targets i k) : s.namesSlot k = true := by
  rw [State.namesSlot, State.inFlight, hi]
  cases i
  all_goals exact decide_eq_true h

/-- While a command other than ALLOC is in flight, what it names depends on the latched word alone. -/
theorem namesSlot_congr_word {s t : State} {k : Nat} (hc : t.latch.cmd = s.latch.cmd)
    (ha : decode s.latch.cmd ≠ .ok .alloc) : t.namesSlot k = s.namesSlot k := by
  unfold State.namesSlot State.inFlight
  rw [hc]
  cases h : decode s.latch.cmd with
  | error e => rfl
  | ok i =>
    cases i with
    | alloc => exact absurd h ha
    | _ => rfl

/-- ALLOC ends in its only step (41_alloc_init.md R140). -/
theorem commandStep_alloc_ends {s t : State} (h : CommandStep s .alloc t) : t.status.busy = false := by
  cases h <;> rfl

/-- An engine step keeps the number of slots and each slot the command in flight does not name, and names no other slot
afterwards unless it has ended the command. -/
theorem engineStep_unnamed {s t : State} (h : engineStep s = .next t) :
    t.slots.length = s.slots.length ∧ ∀ k, s.namesSlot k = false →
      t.slot k = s.slot k ∧ (t.status.busy = false ∨ t.namesSlot k = false) := by
  obtain ⟨-, rfl⟩ | ⟨-, -, -, rfl⟩ | ⟨-, -, i, hi, hc⟩ := engineStep_commandStep h
  · exact ⟨rfl, fun k hk => ⟨rfl, .inr hk⟩⟩
  · exact ⟨rfl, fun k _ => ⟨rfl, .inl rfl⟩⟩
  · refine ⟨hc.slots_length, fun k hk => ⟨hc.slot_other fun ht => ?_, ?_⟩⟩
    · exact nomatch hk.symm.trans (namesSlot_of_targets hi ht)
    · obtain ⟨hb, -⟩ | ⟨-, -, -, -, -, hcmd, -⟩ := hc.ends_or_works
      · exact .inl hb
      · by_cases ha : i = .alloc
        · subst ha
          exact .inl (commandStep_alloc_ends hc)
        · have hna : decode s.latch.cmd ≠ .ok .alloc := fun e => ha (Except.ok.inj (hi.symm.trans e))
          exact .inr ((namesSlot_congr_word hcmd hna).trans hk)

theorem runEngine_of_not_busy {fuel : Nat} {s : State} (h : s.status.busy = false) : runEngine fuel s = s := by
  cases fuel <;> simp [runEngine, h]

theorem runEngine_succ {fuel : Nat} {s t : State} (hb : s.status.busy = true) (ht : engineStep s = .next t) :
    runEngine (fuel + 1) s = runEngine fuel t := by
  simp only [runEngine, hb, ht, if_true]

/-- A command run to its end keeps the number of slots and each slot it does not name. -/
theorem runEngine_unnamed (fuel : Nat) (s : State) :
    (runEngine fuel s).slots.length = s.slots.length ∧
      ∀ k, s.namesSlot k = false → (runEngine fuel s).slot k = s.slot k := by
  induction fuel generalizing s with
  | zero => exact ⟨rfl, fun _ _ => rfl⟩
  | succ fuel ih =>
    obtain ⟨t, ht⟩ := engineStep_next s
    obtain ⟨hlen, hslot⟩ := engineStep_unnamed ht
    cases hb : s.status.busy with
    | true =>
      rw [runEngine_succ hb ht]
      refine ⟨(ih t).1.trans hlen, fun k hk => ?_⟩
      obtain ⟨e, hb | hn⟩ := hslot k hk
      · rw [runEngine_of_not_busy hb]
        exact e
      · exact ((ih t).2 k hn).trans e
    | false =>
      rw [runEngine_of_not_busy hb]
      exact ⟨rfl, fun _ _ => rfl⟩

/-- What a slot register shows of slot `k`: nothing beyond the slot file, else the slot, or for a slot the command in
flight names the one after the command (10_state.md R38, R39). -/
theorem shownSlots_getD {s : State} (h : s.Inv) (f : Slot → Nat) (k : Nat) :
    (s.params.numSlots ≤ k → (s.shownSlots.map f).getD k 0 = 0) ∧
      (k < s.params.numSlots →
        (s.shownSlots.map f).getD k 0 = f (s.slot k) ∨
          (s.status.busy = true ∧ s.namesSlot k = true ∧
            (s.shownSlots.map f).getD k 0 = f (s.afterCommand.slot k))) := by
  obtain ⟨hlen, hother⟩ := runEngine_unnamed (s.lLen + s.latch.nblk + 2) s
  have hread : ∀ u : State, u.slots.length = s.slots.length → k < s.params.numSlots →
      (u.slots.map f).getD k 0 = f (u.slot k) := fun u hu hk => by
    have hk' : k < u.slots.length := by rw [hu, h.slotCount]; exact hk
    simp [State.slot, hk']
  have hbeyond : ∀ u : State, u.slots.length = s.slots.length → s.params.numSlots ≤ k →
      (u.slots.map f).getD k 0 = 0 := fun u hu hk => by
    have hk' : u.slots.length ≤ k := by rw [hu, h.slotCount]; exact hk
    simp [hk']
  unfold State.shownSlots
  split
  · rename_i hb
    simp only [Bool.and_eq_true] at hb
    refine ⟨hbeyond s.afterCommand hlen, fun hk => ?_⟩
    cases hn : s.namesSlot k with
    | true => exact .inr ⟨hb.1, rfl, hread s.afterCommand hlen hk⟩
    | false => exact .inl ((hread s.afterCommand hlen hk).trans (congrArg f (hother k hn)))
  · exact ⟨hbeyond s rfl, fun hk => .inl (hread s rfl hk)⟩

theorem shownSlots_length {s : State} : s.shownSlots.length = s.slots.length := by
  unfold State.shownSlots
  split
  · exact (runEngine_unnamed _ s).1
  · rfl

/-- Nibble `j` of the SLOT_STATE register that begins at slot `first` (10_state.md R38). -/
theorem slotStateWord_field (l : List Slot) (first : Nat) {j : Nat} (hj : j < 8) :
    field (slotStateWord l first) (4 * j + 3) (4 * j) = (l.map fun t => t.state.code).getD (first + j) 0 := by
  refine (field_digits (w := 4) rfl ?_ (by decide) (by omega)).trans ?_
  · intro c hc
    obtain ⟨t, -, rfl⟩ := List.mem_map.1 hc
    exact slotStateCode_lt t.state
  · simp [hj, List.getElem?_drop]

/-- The digits of SLOT_DIR are single bits. -/
theorem slotDirs_lt (l : List Slot) : ∀ c ∈ l.map (fun t => t.dir.bit), c < 2 := by
  intro c hc
  obtain ⟨t, -, rfl⟩ := List.mem_map.1 hc
  exact dirBit_lt t.dir

/-- Bit `k` of SLOT_DIR (10_state.md R39). -/
theorem slotDirWord_field (l : List Slot) {k : Nat} (hk : k < 16) :
    field (slotDirWord l) k k = (l.map fun t => t.dir.bit).getD k 0 := by
  have h := field_digits (base := 2) (w := 1) (k := k) rfl (slotDirs_lt l) (by decide) (by omega)
  simpa only [slotDirWord, Nat.one_mul, Nat.sub_self, Nat.add_zero] using h

/-- Bits [31:16] of SLOT_DIR for a slot file of at most 16 slots (10_state.md R39). -/
theorem slotDirWord_high (l : List Slot) (hl : l.length ≤ 16) : field (slotDirWord l) 31 16 = 0 := by
  have hlt := digits_lt (slotDirs_lt l)
  have hle : 2 ^ (l.map fun t => t.dir.bit).length ≤ 2 ^ 16 := Nat.pow_le_pow_right (by decide) (by simpa using hl)
  unfold slotDirWord
  rw [field_ofNat _ (by decide) (by decide), Nat.div_eq_of_lt (hlt.trans_le hle), Nat.zero_mod]

/-- Settles O18: the registers are the digits of the slots shown, and a command run to its end keeps the slots it
does not name. -/
theorem slotRegistersShowTheSlots : Obligations.SlotRegistersShowTheSlots := by
  refine ⟨by decide, fun s k h hk => ?_⟩
  have hstate : field (s.readReg (if k < 8 then .slotState0 else .slotState1)) (4 * (k % 8) + 3) (4 * (k % 8)) =
      (s.shownSlots.map fun t => t.state.code).getD k 0 := by
    split
    · exact (slotStateWord_field _ 0 (by omega)).trans (by rw [show 0 + k % 8 = k by omega])
    · exact (slotStateWord_field _ 8 (by omega)).trans (by rw [show 8 + k % 8 = k by omega])
  have hdir : field (s.readReg .slotDir) k k = (s.shownSlots.map fun t => t.dir.bit).getD k 0 := slotDirWord_field _ hk
  obtain ⟨hs0, hs1⟩ := shownSlots_getD h (fun t => t.state.code) k
  obtain ⟨hd0, hd1⟩ := shownSlots_getD h (fun t => t.dir.bit) k
  have hhigh : s.shownSlots.length ≤ 16 := by
    rw [shownSlots_length, h.slotCount]
    exact numSlots_le h.params
  refine ⟨fun w b hw hb => ?_, ?_, ?_, slotDirWord_high _ hhigh, fun _ => ⟨rfl, rfl, rfl⟩⟩
  · subst hw hb
    rw [hstate]
    exact ⟨hs0, hs1⟩
  · rw [hdir]
    exact hd0
  · rw [hdir]
    exact hd1

end Sys2Proof.Machine

/-! ## Key schedules and the host -/

namespace Sys2Proof.Machine

/-- What SLOT_STATE and SLOT_DIR show of a slot (10_state.md R38, R39). -/
def Slot.shape (t : Slot) : SlotState × Dir := (t.state, t.dir)

/-- Two states in which the engine takes the same decisions: they differ at most in key schedules, chaining vectors,
memory and what the host has of its own. -/
structure State.SameControl (s t : State) : Prop where
  params : t.params = s.params
  status : t.status = s.status
  latch : t.latch = s.latch
  phase : t.phase = s.phase
  calls : t.calls = s.calls
  shapes : t.slots.map Slot.shape = s.slots.map Slot.shape

/-- Beyond the slot file there is the erased slot (log entry 18). -/
theorem slot_beyond {s : State} {n : Nat} (h : s.slots.length ≤ n) : s.slot n = Slot.erased s.params.blockBytes := by
  simp [State.slot, h]

theorem slot_shape_eq (s : State) (n : Nat) : (s.slot n).shape = (s.slots.map Slot.shape).getD n (.free, .enc) := by
  unfold State.slot
  by_cases hn : n < s.slots.length
  · simp [hn]
  · simp [hn, Slot.erased, Slot.shape]

theorem firstFree_eq_shapes (s : State) :
    s.firstFree = (s.slots.map Slot.shape).findIdx? (fun p => decide (p.1 = .free)) := by
  rw [List.findIdx?_map]
  rfl

namespace State.SameControl

variable {s t : State}

theorem slot_shape (h : s.SameControl t) (n : Nat) : (t.slot n).shape = (s.slot n).shape := by
  rw [slot_shape_eq, slot_shape_eq, h.shapes]

theorem slot_state (h : s.SameControl t) (n : Nat) : (t.slot n).state = (s.slot n).state :=
  congrArg Prod.fst (h.slot_shape n)

theorem slot_dir (h : s.SameControl t) (n : Nat) : (t.slot n).dir = (s.slot n).dir :=
  congrArg Prod.snd (h.slot_shape n)

theorem firstFree (h : s.SameControl t) : t.firstFree = s.firstFree := by
  rw [firstFree_eq_shapes, firstFree_eq_shapes, h.shapes]

theorem namesSlot (h : s.SameControl t) (n : Nat) : t.namesSlot n = s.namesSlot n := by
  unfold State.namesSlot State.inFlight
  rw [h.latch, h.firstFree]

theorem nextCallFails (h : s.SameControl t) : t.nextCallFails = s.nextCallFails := by
  rw [State.nextCallFails, State.nextCallFails, h.params, h.calls]

theorem blockIn (h : s.SameControl t) : t.blockIn = s.blockIn := by
  simp only [State.blockIn, State.lSrcAddr, h.latch, h.params]

theorem blockOut (h : s.SameControl t) : t.blockOut = s.blockOut := by
  simp only [State.blockOut, State.lDstAddr, h.latch, h.params]

theorem complete (h : s.SameControl t) (r : ResultCode) (c : CauseCode) :
    (s.complete r c).SameControl (t.complete r c) :=
  ⟨h.params, by simp [h.status], rfl, rfl, h.calls, h.shapes⟩

theorem setSlot (h : s.SameControl t) (n : Nat) {v w : Slot} (hs : w.state = v.state) (hd : w.dir = v.dir) :
    (s.setSlot n v).SameControl (t.setSlot n w) :=
  ⟨h.params, h.status, h.latch, h.phase, h.calls, by simp [List.map_set, Slot.shape, hs, hd, h.shapes]⟩

theorem fail (h : s.SameControl t) (n : Nat) (c : CauseCode) : (s.fail n c).SameControl (t.fail n c) := by
  apply State.SameControl.complete
  exact h.setSlot n rfl (h.slot_dir n)

theorem countCall (h : s.SameControl t) : s.countCall.SameControl t.countCall :=
  ⟨h.params, h.status, h.latch, h.phase, congrArg (· + 1) h.calls, h.shapes⟩

theorem enter (h : s.SameControl t) (ph : Phase) : (s.enter ph).SameControl (t.enter ph) :=
  ⟨h.params, h.status, h.latch, rfl, h.calls, h.shapes⟩

theorem setBlockCount (h : s.SameControl t) : s.setBlockCount.SameControl t.setBlockCount :=
  ⟨h.params, h.status, by simp [State.lLen, h.latch, h.params], h.phase, h.calls, h.shapes⟩

theorem countBlock (h : s.SameControl t) : s.countBlock.SameControl t.countBlock :=
  ⟨h.params, h.status, by simp [h.latch], h.phase, h.calls, h.shapes⟩

theorem setResultSlot (h : s.SameControl t) (n : Nat) : (s.setResultSlot n).SameControl (t.setResultSlot n) :=
  ⟨h.params, by simp [h.status], h.latch, h.phase, h.calls, h.shapes⟩

theorem loadBuffers (h : s.SameControl t) (iv key iv' key' : Bytes) :
    (s.loadBuffers iv key).SameControl (t.loadBuffers iv' key') :=
  ⟨h.params, h.status, h.latch, h.phase, h.calls, h.shapes⟩

theorem store (h : s.SameControl t) (a b : Nat) (v w : Bytes) : (s.store a v).SameControl (t.store b w) :=
  ⟨h.params, h.status, h.latch, h.phase, h.calls, h.shapes⟩

theorem scramble (h : s.SameControl t) (a b m n : Nat) : (s.scramble a m).SameControl (t.scramble b n) :=
  ⟨h.params, h.status, h.latch, h.phase, h.calls, h.shapes⟩

theorem nextBlock (h : s.SameControl t) : (nextBlock s).SameControl (nextBlock t) := by
  unfold Machine.nextBlock
  rw [h.countBlock.latch]
  split
  · exact h.countBlock.complete _ _
  · exact h.countBlock

theorem startBlocks (h : s.SameControl t) : (startBlocks s).SameControl (startBlocks t) := by
  unfold Machine.startBlocks
  rw [h.setBlockCount.latch]
  split
  · exact h.setBlockCount.complete _ _
  · exact h.setBlockCount.enter _

theorem runChecks {rows rows' : List CheckRow} {effect : State → State} (h : s.SameControl t) (hr : rows' = rows)
    (he : (effect s).SameControl (effect t)) : (runChecks rows effect s).SameControl (runChecks rows' effect t) := by
  subst hr
  unfold Machine.runChecks
  split
  · exact h.complete _ _
  · exact he

theorem expandAndCommit (h : s.SameControl t) (hk : t.keybuf = s.keybuf) (n : Nat) (d : Dir) :
    (expandAndCommit n d s).SameControl (expandAndCommit n d t) := by
  unfold Machine.expandAndCommit State.expandFails
  rw [hk, h.params, h.nextCallFails]
  split
  · exact h.countCall.fail _ _
  · apply State.SameControl.complete
    exact h.countCall.setSlot n rfl (h.slot_dir n)

/-- INIT's EXEC_INIT step decides alike where memory, so the key, is the same. -/
theorem initExec (h : s.SameControl t) (hm : t.mem = s.mem) (n : Nat) (d : Dir) :
    (initExec n d s).SameControl (initExec n d t) := by
  unfold Machine.initExec
  have hread : ∀ a k, memRead t a k = memRead s a k := fun a k => by simp only [memRead, h.params, hm]
  have hiv : t.lIvAddr = s.lIvAddr := by simp only [State.lIvAddr, h.latch]
  have hkey : t.lKeyAddr = s.lKeyAddr := by simp only [State.lKeyAddr, h.latch]
  simp only [hread, hiv, hkey, h.params]
  split
  · exact h.fail _ _
  split
  · exact h.fail _ _
  · apply State.SameControl.expandAndCommit
    · exact (h.loadBuffers _ _ _ _).setSlot n (h.slot_state n) rfl
    · rfl

end State.SameControl

/-- An EXEC_BLOCK step by what decides it: the read, the backend call, the write (42_update.md R161, R162, R168). -/
theorem blockStep_eq (n : Nat) (s : State) :
    blockStep n s =
      if rangeOk s.params s.blockIn s.params.blockBytes = false then s.fail n .busError
      else if s.nextCallFails = true then s.countCall.fail n .blockXform
      else if rangeOk s.params s.blockOut s.params.blockBytes = false then
        (s.countCall.scramble s.blockOut s.params.blockBytes).fail n .busError
      else nextBlock (s.blockStored n) := by
  obtain ⟨h1, e⟩ | ⟨h1, h2, e⟩ | ⟨h1, h2, h3, e⟩ | ⟨h1, h2, h3, e⟩ := blockStep_cases n s <;> rw [e]
  · simp [h1]
  · simp [h1, h2]
  · simp [h1, h2, h3]
  · simp only [h1, h2, h3, Bool.true_eq_false, Bool.false_eq_true, if_false]
    rfl

namespace State.SameControl

variable {s t : State}

theorem blockStored (h : s.SameControl t) (n : Nat) : (s.blockStored n).SameControl (t.blockStored n) :=
    .setSlot (h.countCall.store _ _ _ _) n (h.slot_state n) (h.slot_dir n)

theorem blockStep (h : s.SameControl t) (n : Nat) : (blockStep n s).SameControl (blockStep n t) := by
  rw [blockStep_eq, blockStep_eq, h.params, h.blockIn, h.blockOut, h.nextCallFails]
  split
  · exact h.fail _ _
  split
  · exact h.countCall.fail _ _
  split
  · exact (h.countCall.scramble _ _ _ _).fail _ _
  · exact (h.blockStored n).nextBlock

theorem seqRow (h : s.SameControl t) (n : Nat) (permits : SlotState → Bool) :
    seqRow t n permits = seqRow s n permits := by
  rw [Machine.seqRow, Machine.seqRow, h.slot_state n]

theorem slotRangeRow (h : s.SameControl t) (n : Nat) : slotRangeRow t n = slotRangeRow s n := by
  rw [Machine.slotRangeRow, Machine.slotRangeRow, h.params]

/-- A command's step decides alike; INIT's, which reads the key, where memory is the same. -/
theorem exec {i : Instr} {s' t' : State} (h : s.SameControl t) (hm : ∀ n d, i = .init n d → t.mem = s.mem)
    (hs : exec i s = .next s') (ht : exec i t = .next t') : s'.SameControl t' := by
  cases i with
  | alloc =>
    cases hs
    cases ht
    refine h.runChecks ?_ ?_
    · unfold allocChecks
      rw [h.firstFree]
    · unfold allocEffect
      rw [h.firstFree, h.params]
      split
      · exact ((h.setSlot _ rfl rfl).setResultSlot _).complete _ _
      · exact h.complete _ _
  | init n d =>
    by_cases hp : s.phase = .execInit
    · have hp' := h.phase.trans hp
      cases (show Machine.exec (.init n d) s = .next (Machine.initExec n d s) by
        simp only [Machine.exec, execInit, hp]).symm.trans hs
      cases (show Machine.exec (.init n d) t = .next (Machine.initExec n d t) by
        simp only [Machine.exec, execInit, hp']).symm.trans ht
      exact h.initExec (hm n d rfl) n d
    · have hp' : t.phase ≠ .execInit := by rwa [h.phase]
      cases (execInit_check n d hp).symm.trans hs
      cases (execInit_check n d hp').symm.trans ht
      refine h.runChecks ?_ (h.enter _)
      unfold initChecks State.lKeyLen State.lIvLen State.lKeyAddr State.lIvAddr
      rw [h.seqRow, h.slotRangeRow, h.latch, h.params]
  | update n =>
    by_cases hp : s.phase = .execBlock
    · have hp' := h.phase.trans hp
      cases (execUpdate_block n hp).symm.trans hs
      cases (execUpdate_block n hp').symm.trans ht
      exact h.blockStep n
    · have hp' : t.phase ≠ .execBlock := by rwa [h.phase]
      cases (execUpdate_check n hp).symm.trans hs
      cases (execUpdate_check n hp').symm.trans ht
      refine h.runChecks ?_ h.startBlocks
      unfold updateChecks State.lLen State.lSrcAddr State.lDstAddr
      rw [h.seqRow, h.slotRangeRow, h.latch, h.params]
  | final n =>
    cases hs
    cases ht
    refine h.runChecks (by simp only [finalChecks, h.seqRow, h.slotRangeRow]) ?_
    apply State.SameControl.complete
    exact h.setSlot n rfl (h.slot_dir n)
  | free n =>
    cases hs
    cases ht
    refine h.runChecks (by simp only [freeChecks, h.seqRow, h.slotRangeRow]) ?_
    apply State.SameControl.complete
    exact h.setSlot n rfl rfl
  | copy n r =>
    cases hs
    cases ht
    refine h.runChecks (by simp only [copyChecks, h.seqRow, h.slotRangeRow]) ?_
    unfold copyEffect
    split
    · exact h.complete _ _
    · apply State.SameControl.complete
      exact h.setSlot n rfl (h.slot_dir r)

end State.SameControl

/-- INIT writes no byte of memory (41_alloc_init.md R143). -/
theorem commandStep_init_mem {s t : State} {n : Nat} {d : Dir} (h : CommandStep s (.init n d) t) : t.mem = s.mem := by
  cases h <;> rfl

/-- The erased latch holds no command (30_encoding.md R97). -/
theorem decode_latch_zero : decode Latch.zero.cmd = .error .reservedOpcode := by decide

/-- After a command's step the latch holds its word, or nothing that decodes. -/
theorem commandStep_decode {s t : State} {i j : Instr} (h : CommandStep s i t) (hj : decode t.latch.cmd = .ok j) :
    t.latch.cmd = s.latch.cmd := by
  obtain ⟨-, -, -, -, hl, -⟩ | ⟨-, -, -, -, -, hcmd, -⟩ := h.ends_or_works
  · rw [hl, decode_latch_zero] at hj
    cases hj
  · exact hcmd

/-- Two states in which the engine takes the same decisions up to the end of the command in flight: INIT, whose outcome
the key in memory decides, has the same memory. -/
structure State.RunAlike (s t : State) : Prop where
  control : s.SameControl t
  initMem : ∀ n d, decode s.latch.cmd = .ok (.init n d) → t.mem = s.mem

theorem State.RunAlike.engineStep {s t s' t' : State} (h : s.RunAlike t) (hs : engineStep s = .next s')
    (ht : engineStep t = .next t') : s'.RunAlike t' := by
  obtain ⟨hc, hm⟩ := h
  unfold Machine.engineStep at hs ht
  rw [hc.status, hc.phase, hc.latch] at ht
  split at hs
  · rename_i hidle
    rw [if_pos hidle] at ht
    cases hs
    cases ht
    exact ⟨hc, hm⟩
  · rename_i hbusy
    rw [if_neg hbusy] at ht
    cases hi : decode s.latch.cmd with
    | error e =>
      simp only [hi] at hs ht
      cases hs
      cases ht
      exact ⟨hc.complete _ _, fun n d hd => nomatch decode_latch_zero.symm.trans hd⟩
    | ok i =>
      simp only [hi] at hs ht
      have hms : ∀ n d, i = .init n d → t.mem = s.mem := fun n d e => hm n d (e ▸ hi)
      refine ⟨hc.exec hms hs ht, fun n d hd => ?_⟩
      have hstep := commandStep_of_exec hs
      rw [commandStep_decode hstep hd] at hd
      cases hi.symm.trans hd
      rw [commandStep_init_mem hstep, commandStep_init_mem (commandStep_of_exec ht), hms n d rfl]

theorem State.RunAlike.runEngine {s t : State} (h : s.RunAlike t) (fuel : Nat) :
    (runEngine fuel s).RunAlike (runEngine fuel t) := by
  induction fuel generalizing s t with
  | zero => exact h
  | succ fuel ih =>
    have hst : t.status.busy = s.status.busy := congrArg Status.busy h.control.status
    cases hb : s.status.busy with
    | false =>
      rw [runEngine_of_not_busy hb, runEngine_of_not_busy (hst.trans hb)]
      exact h
    | true =>
      obtain ⟨s', hs⟩ := engineStep_next s
      obtain ⟨t', ht⟩ := engineStep_next t
      rw [runEngine_succ hb hs, runEngine_succ (hst.trans hb) ht]
      exact ih (h.engineStep hs ht)

/-- The slot registers show states and directions alone. -/
theorem slotWords_congr {l l' : List Slot} (h : l'.map Slot.shape = l.map Slot.shape) :
    (∀ first, slotStateWord l' first = slotStateWord l first) ∧ slotDirWord l' = slotDirWord l := by
  have hstate : l'.map (fun t => t.state.code) = l.map (fun t => t.state.code) := by
    simpa [Function.comp_def, Slot.shape] using congrArg (List.map fun p : SlotState × Dir => p.1.code) h
  have hdir : l'.map (fun t => t.dir.bit) = l.map (fun t => t.dir.bit) := by
    simpa [Function.comp_def, Slot.shape] using congrArg (List.map fun p : SlotState × Dir => p.2.bit) h
  refine ⟨fun first => ?_, ?_⟩
  · rw [slotStateWord, slotStateWord, List.map_take, List.map_drop, hstate, ← List.map_drop, ← List.map_take]
  · rw [slotDirWord, slotDirWord, hdir]

/-- Two states that differ in key schedules alone (10_state.md R34). -/
structure State.DifferInKeys (s t : State) : Prop where
  rest : t = { s with slots := t.slots }
  length : t.slots.length = s.slots.length
  slot : ∀ n, ∃ ks, t.slot n = { s.slot n with ks := ks }

theorem State.DifferInKeys.runAlike {s t : State} (h : s.DifferInKeys t) : s.RunAlike t := by
  obtain ⟨hrest, hlen, hslot⟩ := h
  have hshapes : t.slots.map Slot.shape = s.slots.map Slot.shape := by
    refine List.ext_getElem (by simpa using hlen) fun n hn hn' => ?_
    simp only [List.length_map] at hn hn'
    obtain ⟨ks, e⟩ := hslot n
    simpa [State.slot, hn, hn', Slot.shape] using congrArg Slot.shape e
  rw [hrest]
  exact ⟨⟨rfl, rfl, rfl, rfl, rfl, hshapes⟩, fun _ _ _ => rfl⟩

theorem State.DifferInKeys.shownSlots {s t : State} (h : s.DifferInKeys t) :
    t.shownSlots.map Slot.shape = s.shownSlots.map Slot.shape := by
  have halike := h.runAlike
  have hrest := h.rest
  have hafter := (halike.runEngine (s.lLen + s.latch.nblk + 2)).control.shapes
  have hdraws : t.draws = s.draws := by rw [hrest]
  have hfuel : t.lLen + t.latch.nblk + 2 = s.lLen + s.latch.nblk + 2 := by rw [hrest]; rfl
  unfold State.shownSlots State.afterCommand
  rw [halike.control.status, hdraws, hfuel]
  split
  · exact hafter
  · exact halike.control.shapes

/-- The CV window shows no key schedule (10_state.md R42). -/
theorem State.DifferInKeys.readCvWin {s t : State} (h : s.DifferInKeys t) (m : Nat) :
    t.readCvWin m = s.readCvWin m := by
  have hrest := h.rest
  have hparams : t.params = s.params := by rw [hrest]
  have hstatus : t.status = s.status := by rw [hrest]
  have hsel : t.cvSel = s.cvSel := by rw [hrest]
  have hdraws : t.draws = s.draws := by rw [hrest]
  have hcv : ∀ n, (t.slot n).cv = (s.slot n).cv := fun n => by
    obtain ⟨ks, e⟩ := h.slot n
    rw [e]
  unfold State.readCvWin State.cvWord State.cvByte
  rw [hparams, hstatus, hsel, hdraws, hcv, h.runAlike.control.namesSlot]

/-- No register shows a key schedule (10_state.md R34). -/
theorem State.DifferInKeys.readReg {s t : State} (h : s.DifferInKeys t) (r : Reg) : t.readReg r = s.readReg r := by
  obtain ⟨hstate, hdir⟩ := slotWords_congr h.shownSlots
  have hrest := h.rest
  cases r
  case slotState0 => exact hstate 0
  case slotState1 => exact hstate 8
  case slotDir => exact hdir
  case cvWin m => exact h.readCvWin m
  all_goals rw [hrest]; rfl

/-- The state with another slot file. -/
def State.withSlots (s : State) (l : List Slot) : State := { s with slots := l }

/-- An outcome with another slot file in its next state. -/
def outcomeWithSlots (l : List Slot) : Host.Outcome State Fault Refusal → Host.Outcome State Fault Refusal
  | .next t => .next (t.withSlots l)
  | .fault f => .fault f
  | .refused e => .refused e

theorem windowAccess_withSlots (s : State) (l : List Slot) (addr : Nat) (width : AccessWidth) :
    windowAccess (s.withSlots l) addr width = windowAccess s addr width := rfl

/-- Whether a host's memory access is let through does not depend on the slots. -/
theorem hostMemStop_withSlots (s : State) (l : List Slot) (a n : Nat) :
    hostMemStop (s.withSlots l) a n = hostMemStop s a n := rfl

/-- A host's memory access that is not let through stops the run. -/
theorem outcomeWithSlots_hostMemStop {s : State} {a n : Nat} {o : Host.Outcome State Fault Refusal}
    (h : hostMemStop s a n = some o) (l : List Slot) : outcomeWithSlots l o = o := by
  unfold hostMemStop at h
  split at h
  · cases h
    rfl
  split at h
  · cases h
    rfl
  split at h
  · cases h
    rfl
  · cases h

theorem writeReg_withSlots (s : State) (l : List Slot) (r : Reg) (v : Word) :
    (s.withSlots l).writeReg r v = (s.writeReg r v).withSlots l := by
  cases r
  case cmd =>
    have hb : (s.withSlots l).status.busy = s.status.busy := rfl
    simp only [State.writeReg, State.writeCmd, hb]
    split <;> rfl
  all_goals rfl

/-- A host operation uses the slot file only in what a register read shows, and never writes it. -/
theorem hostStep_withSlots (op : HostOp) (s : State) (l : List Slot)
    (hread : ∀ r, (s.withSlots l).readReg r = s.readReg r) :
    hostStep op (s.withSlots l) = outcomeWithSlots l (hostStep op s) := by
  cases op with
  | readReg addr width =>
    simp only [hostStep, hostReadReg, windowAccess_withSlots, hread]
    cases windowAccess s addr width <;> rfl
  | writeReg addr width v =>
    simp only [hostStep, hostWriteReg, windowAccess_withSlots, writeReg_withSlots]
    cases windowAccess s addr width <;> rfl
  | readMem a n =>
    simp only [hostStep, hostReadMem, hostMemStop_withSlots]
    cases h : hostMemStop s a n with
    | none => rfl
    | some o => exact (outcomeWithSlots_hostMemStop h l).symm
  | writeMem a bs =>
    simp only [hostStep, hostWriteMem, hostMemStop_withSlots]
    cases h : hostMemStop s a bs.length with
    | none => rfl
    | some o => exact (outcomeWithSlots_hostMemStop h l).symm
  | wait =>
    have hb : (s.withSlots l).status.busy = s.status.busy := rfl
    simp only [hostStep, hostWait, hb]
    cases s.status.busy <;> rfl

/-- Settles O60: what registers show is alike in both states, since the engine's decisions do not depend on key
schedules. -/
theorem keySchedulesNeverReachTheHost : Obligations.KeySchedulesNeverReachTheHost := by
  intro s s' op _ _ hrest hlen hslot
  have hdiff : s.DifferInKeys s' := ⟨hrest, hlen, fun n => by
    by_cases hn : n < s.slots.length
    · exact hslot n hn
    · refine ⟨(s.slot n).ks, ?_⟩
      rw [slot_beyond (by omega), slot_beyond (by omega), hrest]⟩
  have hstep : hostStep op s' = outcomeWithSlots s'.slots (hostStep op s) := by
    have hread := hdiff.readReg
    rw [show s' = s.withSlots s'.slots from hrest] at hread ⊢
    exact hostStep_withSlots op s s'.slots hread
  rw [hstep]
  exact ⟨fun t h => by rw [h]; rfl, fun f h => by rw [h]; rfl, fun e h => by rw [h]; rfl⟩

end Sys2Proof.Machine

/-! ## The memory port, the hosts' memory accesses and the frame of commands on memory -/

namespace Sys2Proof.Machine

/-- Byte j of a read of n bytes from a on is the byte at a + j (20_memory.md R64). -/
theorem getElem?_readBytes (m : List Host.Cell) (a : Nat) {n j : Nat} (hj : j < n) :
    (readBytes m a n)[j]? = some (readByte m (a + j)) := by
  induction n generalizing a j with
  | zero => omega
  | succ n ih =>
    cases j with
    | zero => rfl
    | succ j =>
      rw [readBytes, List.getElem?_cons_succ, ih (a + 1) (by omega), show a + 1 + j = a + (j + 1) by omega]

/-- A range is refused exactly where one of its bytes is. -/
theorem rangeOk_eq_false {p : Params} {a n : Nat} : rangeOk p a n = false ↔ ∃ j < n, busOk p (a + j) = false := by
  rw [← Bool.not_eq_true, rangeOk_iff]
  constructor
  · intro h
    push Not at h
    obtain ⟨b, h1, h2, hb⟩ := h
    exact ⟨b - a, by omega, by simpa [h1] using hb⟩
  · rintro ⟨j, hj, hb⟩ h
    exact nomatch hb.symm.trans (h (a + j) (by omega) (by omega))

/-- Settles O34: a refused range is one with a refused byte, and a read byte by byte. -/
theorem memReadReturnsTheBytes : Obligations.MemReadReturnsTheBytes := by
  refine fun s a n => ⟨memRead_eq_none.trans rangeOk_eq_false, fun v hv => ⟨memRead_length hv, fun j hj => ?_⟩⟩
  obtain ⟨-, rfl⟩ := memRead_eq_some.1 hv
  exact getElem?_readBytes s.mem a hj

/-- A write changes no byte outside its range (20_memory.md R63). -/
theorem onlyBytes_store {s : State} (h : Memory.wf s.mem = true) (a : Nat) (v : Bytes) :
    s.onlyBytes (s.store a v) a v.length :=
  readByte_writeBytes_outside h a v

/-- A failed write changes no byte outside its range (20_memory.md R63). -/
theorem onlyBytes_scramble {s : State} (h : Memory.wf s.mem = true) (a n : Nat) :
    s.onlyBytes (s.scramble a n) a n :=
  fun b hb => readByte_scrambleBytes h a s.draws n b (.inl hb)

/-- Settles O35: by the reads after a write and after a failed write. -/
theorem memWriteStoresTheBytes : Obligations.MemWriteStoresTheBytes := by
  intro s a v h
  refine ⟨⟨wf_writeBytes h a v, onlyBytes_store h a v, fun j hj => ?_⟩,
    wf_scrambleBytes h a s.draws v.length, onlyBytes_scramble h a v.length,
    fun b hb => readByte_scrambleBytes h a s.draws v.length b (.inr hb)⟩
  calc v[j]? = (readBytes (s.store a v).mem a v.length)[j]? :=
        congrArg (·[j]?) (readBytes_writeBytes_same h a v).symm
    _ = some (readByte (s.store a v).mem (a + j)) := getElem?_readBytes _ a hj

/-- A host access within the address space, off a mapped window and off the in-flight buffer set is let through
(20_memory.md R60, R76; log entries 9, 12). -/
theorem hostMemStop_eq_none {s : State} {a n : Nat} (hr : ∀ b, a ≤ b → b < a + n → ¬ s.inFlightByte b)
    (hw : s.params.windowMapped = false ∨ Region.meets (windowRegion s.params) a n = false) (ha : a + n ≤ 2 ^ 32) :
    hostMemStop s a n = none := by
  have hrace : ¬ s.races a n = true := by
    rw [races_iff]
    exact fun ⟨b, h1, h2, hb⟩ => hr b h1 h2 hb
  have hwin : ¬ (s.params.windowMapped && Region.meets (windowRegion s.params) a n) = true := by
    rw [Bool.not_eq_true, Bool.and_eq_false_iff]
    exact hw
  rw [hostMemStop, if_neg (by omega), if_neg hwin, if_neg hrace]

/-- Settles O37: no stop condition is met, and a write reads back as written. -/
theorem hostMemoryAccessesReachMemory : Obligations.HostMemoryAccessesReachMemory := by
  rintro s a _ bs hr hw hm ha rfl
  have hstop := hostMemStop_eq_none hr hw ha
  refine ⟨?_, s.store a bs, ?_, readBytes_writeBytes_same hm a bs, onlyBytes_store hm a bs, rfl⟩
  · rw [hostStep, hostReadMem, hstop]
    rfl
  · rw [hostStep, hostWriteMem, hstop]

/-- An access to the window of another width or at an unaligned offset is refused (20_memory.md R67). -/
theorem windowAccess_odd (s : State) {off : Nat} {width : AccessWidth} (h : off < 256)
    (ho : width ≠ .word ∨ off % 4 ≠ 0) :
    windowAccess s (s.params.base + off) width = .error .registerAccess := by
  have hcov : Region.covers (windowRegion s.params) (s.params.base + off) = true :=
    windowRegion_covers.2 ⟨by omega, by omega⟩
  rw [windowAccess, if_neg (not_not_intro hcov), Nat.add_sub_cancel_left, if_pos ho]

/-- Settles O16: by what the window makes of an access of each kind. -/
theorem oddRegisterAccessesAreRefused : Obligations.OddRegisterAccessesAreRefused := by
  intro s off width v h
  constructor
  · intro ho
    have hacc := windowAccess_odd s h ho
    exact ⟨by rw [hostStep, hostReadReg, hacc], by rw [hostStep, hostWriteReg, hacc]⟩
  · rintro rfl ha
    have hacc := windowAccess_word s h ha
    exact ⟨by rw [hostStep, hostReadReg, hacc], by rw [hostStep, hostWriteReg, hacc]⟩

/-- The output of a block step is no longer than a block, whatever the length of the slot's CV. -/
theorem blockResult_out_length_le (p : Params) (t : Slot) (b : Bytes) :
    (blockResult p t b).1.length ≤ p.blockBytes := by
  unfold blockResult
  cases t.dir <;> simp

/-- A stored block changes no byte outside the destination bytes of block L.I (42_update.md R165). -/
theorem onlyBytes_blockStored {s : State} (h : Memory.wf s.mem = true) (n : Nat) :
    s.onlyBytes (s.blockStored n) s.blockOut s.params.blockBytes := by
  intro b hb
  have hlen := blockResult_out_length_le s.params (s.slot n) (readBytes s.mem s.blockIn s.params.blockBytes)
  exact readByte_writeBytes_outside h s.blockOut _ b (by omega)

/-- A command's step keeps memory, or it is an EXEC_BLOCK step of UPDATE that writes to its block alone (42_update.md
R165). -/
theorem CommandStep.mem {s t : State} {i : Instr} (h : CommandStep s i t) :
    t.mem = s.mem ∨ ((∃ n, i = .update n) ∧ s.phase = .execBlock ∧
      (Memory.wf s.mem = true → s.onlyBytes t s.blockOut s.params.blockBytes)) := by
  cases h
  case blockWriteError n hp => exact .inr ⟨⟨n, rfl⟩, hp, fun hm => onlyBytes_scramble (s := s.countCall) hm _ _⟩
  case blockLast n hp _ _ => exact .inr ⟨⟨n, rfl⟩, hp, fun hm => onlyBytes_blockStored hm n⟩
  case blockNext n hp _ _ => exact .inr ⟨⟨n, rfl⟩, hp, fun hm => onlyBytes_blockStored hm n⟩
  all_goals exact .inl rfl

/-- Settles O52: of all the states a command's step can leave, those of a block that is written differ in memory. -/
theorem commandsStoreOnlyTheirBlock : Obligations.CommandsStoreOnlyTheirBlock := by
  intro s t i hm h
  obtain he | ⟨⟨n, hi⟩, hp, ho⟩ := (commandStep_of_exec h).mem
  · have hbytes : ∀ a, readByte t.mem a = readByte s.mem a := fun a => by rw [he]
    exact ⟨fun _ _ _ b _ => hbytes b, fun _ _ => hbytes, fun _ => ⟨he, hbytes⟩⟩
  · exact ⟨fun _ _ _ => ho hm, fun _ hne => absurd hp hne, fun hne => absurd hi (hne n)⟩

end Sys2Proof.Machine

/-! ## The fields of a command word, and the commands they stand for -/

namespace Sys2Proof.Machine

/-- The model's two readings of bits [hi:lo] of a word agree. -/
theorem field_eq_bits (w : Word) {hi lo : Nat} (h : lo ≤ hi) : field w hi lo = bits hi lo w := by
  rw [field, bits, BitVec.extractLsb_toNat, Nat.shiftRight_eq_div_pow, Nat.sub_add_comm h]

theorem bits_and (hi lo : Nat) (w m : Word) : bits hi lo (w &&& m) = bits hi lo w &&& bits hi lo m := by
  simp only [bits, BitVec.toNat_and, Nat.and_div_two_pow, Nat.and_mod_two_pow]

/-- A field cut in two: the bits above `mid` count on where those up to `mid` end. -/
theorem bits_split (w : Word) {hi mid lo : Nat} (hl : lo ≤ mid) (hh : mid ≤ hi) :
    bits hi lo w = bits mid lo w + 2 ^ (mid + 1 - lo) * bits hi (mid + 1) w := by
  have hw : hi + 1 - lo = (mid + 1 - lo) + (hi + 1 - (mid + 1)) := by omega
  have hs : lo + (mid + 1 - lo) = mid + 1 := by omega
  rw [bits, bits, bits, hw, pow_add, Nat.mod_mul, Nat.div_div_eq_div_mul, ← pow_add, hs]

/-- A field is 0 exactly where both of its parts are. -/
theorem field_eq_zero_iff (w : Word) {hi mid lo : Nat} (hl : lo ≤ mid) (hh : mid < hi) :
    field w hi lo = 0 ↔ field w mid lo = 0 ∧ field w hi (mid + 1) = 0 := by
  rw [field_eq_bits w (by omega), field_eq_bits w hl, field_eq_bits w hh, bits_split w hl hh.le]
  simp

section Fields

variable (w : Word)

/-! The bit ranges a claim writes out, in the fields of 30_encoding.md R91. -/

theorem field_op : field w 3 0 = opField w := field_eq_bits w (by decide)
theorem field_dir : field w 4 4 = dirField w := field_eq_bits w (by decide)
theorem field_rsvdLo : field w 7 5 = rsvdLoField w := field_eq_bits w (by decide)
theorem field_slot : field w 11 8 = slotField w := field_eq_bits w (by decide)
theorem field_srcSlot : field w 15 12 = srcSlotField w := field_eq_bits w (by decide)
theorem field_rsvdHi : field w 31 16 = rsvdHiField w := field_eq_bits w (by decide)

theorem field_7_4_eq_zero : field w 7 4 = 0 ↔ dirField w = 0 ∧ rsvdLoField w = 0 := by
  rw [field_eq_zero_iff w (mid := 4) (by decide) (by decide), field_dir, field_rsvdLo]

theorem field_31_12_eq_zero : field w 31 12 = 0 ↔ srcSlotField w = 0 ∧ rsvdHiField w = 0 := by
  rw [field_eq_zero_iff w (mid := 15) (by decide) (by decide), field_srcSlot, field_rsvdHi]

theorem field_31_4_eq_zero :
    field w 31 4 = 0 ↔
      (dirField w = 0 ∧ rsvdLoField w = 0) ∧ slotField w = 0 ∧ srcSlotField w = 0 ∧ rsvdHiField w = 0 := by
  rw [field_eq_zero_iff w (mid := 7) (by decide) (by decide), field_7_4_eq_zero,
    field_eq_zero_iff w (lo := 7 + 1) (mid := 11) (by decide) (by decide), field_slot, field_31_12_eq_zero]

theorem opField_lt : opField w < 16 := Nat.mod_lt _ (by decide)
theorem dirField_lt : dirField w < 2 := Nat.mod_lt _ (by decide)
theorem slotField_lt : slotField w < 16 := Nat.mod_lt _ (by decide)
theorem srcSlotField_lt : srcSlotField w < 16 := Nat.mod_lt _ (by decide)

/-- The fields R91 names are all of the word. -/
theorem toNat_eq_fields :
    w.toNat = opField w + dirField w * 2 ^ 4 + rsvdLoField w * 2 ^ 5 + slotField w * 2 ^ 8 + srcSlotField w * 2 ^ 12 +
      rsvdHiField w * 2 ^ 16 := by
  have hw := w.isLt
  simp only [opField, dirField, rsvdLoField, slotField, srcSlotField, rsvdHiField, bits]
  omega

end Fields

/-- The fields of a word, OP, DIR, SLOT and SRC_SLOT as given and both reserved fields 0 (30_encoding.md R91). -/
def HasFields (w : Word) (op dir slot src : Nat) : Prop :=
  opField w = op ∧ dirField w = dir ∧ slotField w = slot ∧ srcSlotField w = src ∧ rsvdLoField w = 0 ∧
    rsvdHiField w = 0

/-- A word has given fields exactly where each value fits its field and the word is built of them. -/
theorem hasFields_iff (w : Word) (op dir slot src : Nat) :
    HasFields w op dir slot src ↔
      (op < 16 ∧ dir < 2 ∧ slot < 16 ∧ src < 16) ∧ commandWord op dir slot src = w := by
  constructor
  · rintro ⟨rfl, rfl, rfl, rfl, hlo, hhi⟩
    refine ⟨⟨opField_lt w, dirField_lt w, slotField_lt w, srcSlotField_lt w⟩, BitVec.eq_of_toNat_eq ?_⟩
    have hw := toNat_eq_fields w
    rw [commandWord, BitVec.toNat_ofNat]
    omega
  · rintro ⟨h, rfl⟩
    simp only [HasFields, opField, dirField, slotField, srcSlotField, rsvdLoField, rsvdHiField, bits, commandWord,
      BitVec.toNat_ofNat]
    omega

/-- The word's fields are those the opcode table gives command `i` (30_encoding.md R99). -/
def IsWordOf (w : Word) : Instr → Prop
  | .alloc => HasFields w 1 0 0 0
  | .init s d => HasFields w 2 d.bit s 0
  | .update s => HasFields w 3 0 s 0
  | .final s => HasFields w 4 0 s 0
  | .free s => HasFields w 5 0 s 0
  | .copy t r => HasFields w 6 0 t r

theorem dir_bit_le_one (d : Dir) : d.bit ≤ 1 := by cases d <;> decide

theorem dirOfBit_bit (d : Dir) : dirOfBit d.bit = d := by cases d <;> rfl

theorem bit_dirOfBit {n : Nat} (h : n < 2) : (dirOfBit n).bit = n := by
  interval_cases n <;> rfl

/-- A word has the fields of a command exactly where the command is well formed and the word is its own. -/
theorem isWordOf_iff_encode (w : Word) (i : Instr) : IsWordOf w i ↔ i.wf = true ∧ encode i = w := by
  cases i <;> simp [IsWordOf, hasFields_iff, Instr.wf, slotFieldOk, encode, dir_bit_le_one]

theorem unusedZero_eq_ok {l : List Nat} {i j : Instr} : unusedZero l i = .ok j ↔ (∀ f ∈ l, f = 0) ∧ i = j := by
  simp [unusedZero, ite_eq_iff]

theorem unusedZero_error {l : List Nat} {i : Instr} : (∃ e, unusedZero l i = .error e) ↔ ∃ f ∈ l, f ≠ 0 := by
  simp [unusedZero, ite_eq_iff]

/-- Branch by branch, the decoder has checked every field that its command does not take as an operand. -/
theorem isWordOf_of_decode {w : Word} {i : Instr} (h : decode w = .ok i) : IsWordOf w i := by
  unfold decode at h
  split at h
  · cases h
  · rename_i hr
    have hd := bit_dirOfBit (dirField_lt w)
    split at h
    case h_7 => cases h
    all_goals
      obtain ⟨hunused, rfl⟩ := unusedZero_eq_ok.1 h
      simp_all [IsWordOf, HasFields]

theorem decode_of_isWordOf {w : Word} {i : Instr} (h : IsWordOf w i) : decode w = .ok i := by
  cases i <;> obtain ⟨hop, hdir, hslot, hsrc, hlo, hhi⟩ := h <;> simp [decode, unusedZero, dirOfBit_bit, *]

theorem decode_eq_ok_iff (w : Word) (i : Instr) : decode w = .ok i ↔ IsWordOf w i :=
  ⟨isWordOf_of_decode, decode_of_isWordOf⟩

/-- Settles O1: each word is evaluated. -/
theorem specWordsDecode : Obligations.SpecWordsDecode := by
  unfold Obligations.SpecWordsDecode
  decide

/-- Settles O2. -/
theorem decodeInvertsEncode : Obligations.DecodeInvertsEncode := fun i hi =>
  decode_of_isWordOf ((isWordOf_iff_encode _ i).2 ⟨hi, rfl⟩)

/-- Settles O3. -/
theorem encodeInvertsDecode : Obligations.EncodeInvertsDecode := fun w i h =>
  (isWordOf_iff_encode w i).1 (isWordOf_of_decode h)

end Sys2Proof.Machine

/-! ## The table form of the encoding -/

namespace Sys2Proof.Machine

/-- A field that the mask keeps whole is the match value's. -/
theorem bits_of_match {w m v : Word} {hi lo c : Nat} (h : w &&& m = v) (hm : bits hi lo m = 2 ^ (hi + 1 - lo) - 1)
    (hv : bits hi lo v = c) : bits hi lo w = c := by
  rw [← hv, ← h, bits_and, hm, Nat.and_two_pow_sub_one_eq_mod]
  exact (Nat.mod_mod _ _).symm

theorem rowMask_fixed_fields (i : Instr) :
    opField (rowMask i) = 2 ^ 4 - 1 ∧ rsvdLoField (rowMask i) = 2 ^ 3 - 1 ∧
      rsvdHiField (rowMask i) = 2 ^ 16 - 1 := by
  cases i <;> simp only [rowMask] <;> decide

/-- A match value is its opcode alone. -/
theorem rowMatch_fields (i : Instr) :
    rowMatch i = BitVec.ofNat 32 (opField (rowMatch i)) ∧ rsvdLoField (rowMatch i) = 0 ∧
      rsvdHiField (rowMatch i) = 0 := by
  cases i <;> simp only [rowMatch] <;> decide

/-- Every row fixes OP and both reserved fields (30_encoding.md R99). -/
theorem fixed_fields_of_match {w : Word} {i : Instr} (h : w &&& rowMask i = rowMatch i) :
    opField w = opField (rowMatch i) ∧ rsvdLoField w = 0 ∧ rsvdHiField w = 0 := by
  obtain ⟨mop, mlo, mhi⟩ := rowMask_fixed_fields i
  obtain ⟨-, vlo, vhi⟩ := rowMatch_fields i
  exact ⟨bits_of_match h mop rfl, bits_of_match h mlo vlo, bits_of_match h mhi vhi⟩

/-- A word's OP names the one row it can match. -/
theorem rowMatch_eq_of_match {w : Word} {i : Instr} (h : w &&& rowMask i = rowMatch i) :
    rowMatch i = BitVec.ofNat 32 (opField w) := by
  rw [(fixed_fields_of_match h).1]
  exact (rowMatch_fields i).1

/-- The command of the row of `i` with the operands that the word holds. -/
def commandOfRow (w : Word) : Instr → Instr
  | .alloc => .alloc
  | .init _ _ => .init (slotField w) (dirOfBit (dirField w))
  | .update _ => .update (slotField w)
  | .final _ => .final (slotField w)
  | .free _ => .free (slotField w)
  | .copy _ _ => .copy (slotField w) (srcSlotField w)

theorem rowMatch_commandOfRow (w : Word) (i : Instr) : rowMatch (commandOfRow w i) = rowMatch i := by
  cases i <;> rfl

/-- A word that matches a row decodes to that row's command with the word's operands. -/
theorem decode_of_match {w : Word} {i : Instr} (h : w &&& rowMask i = rowMatch i) :
    decode w = .ok (commandOfRow w i) := by
  obtain ⟨hop, hlo, hhi⟩ := fixed_fields_of_match h
  refine decode_of_isWordOf ?_
  cases i <;> simp only [rowMask, rowMatch] at h hop
  case alloc => exact ⟨hop, bits_of_match h rfl rfl, bits_of_match h rfl rfl, bits_of_match h rfl rfl, hlo, hhi⟩
  case init => exact ⟨hop, (bit_dirOfBit (dirField_lt w)).symm, rfl, bits_of_match h rfl rfl, hlo, hhi⟩
  case copy => exact ⟨hop, bits_of_match h rfl rfl, rfl, rfl, hlo, hhi⟩
  case update | final | free => exact ⟨hop, bits_of_match h rfl rfl, rfl, bits_of_match h rfl rfl, hlo, hhi⟩

/-- The mask of the row with match value `v`. -/
def maskOfMatch (v : Word) : Word :=
  if v = 1#32 then 0xFFFFFFFF#32 else if v = 2#32 then 0xFFFFF0EF#32 else if v = 6#32 then 0xFFFF00FF#32
  else 0xFFFFF0FF#32

theorem rowMask_eq_maskOfMatch (i : Instr) : rowMask i = maskOfMatch (rowMatch i) := by
  cases i <;> rfl

theorem encode_matches_row (i : Instr) : Laws.RowMatch.Statement i := by
  cases i
  case alloc => exact Laws.RowMatch.alloc
  case init s d => exact Laws.RowMatch.init s d
  case update s => exact Laws.RowMatch.update s
  case final s => exact Laws.RowMatch.final s
  case free s => exact Laws.RowMatch.free s
  case copy t r => exact Laws.RowMatch.copy t r

/-- A word that decodes matches the row of its command. -/
theorem match_of_decode {w : Word} {j : Instr} (h : decode w = .ok j) : w &&& rowMask j = rowMatch j := by
  obtain ⟨hj, rfl⟩ := (isWordOf_iff_encode w j).1 (isWordOf_of_decode h)
  exact encode_matches_row j hj

/-- Settles O4: the fields of the opcode table for the pseudocode, the rows' masks for the table form. -/
theorem decodeFollowsThePseudocode : Obligations.DecodeFollowsThePseudocode := by
  intro w
  refine ⟨?_, fun s d => ?_, fun s => ?_, fun s => ?_, fun s => ?_, fun t r => ?_,
    fun i => ⟨fun h => ?decodes, ?matched⟩, fun i j hi hj => ?oneRow⟩
  case decodes => exact ⟨_, decode_of_match h, rowMatch_commandOfRow w i⟩
  case matched =>
    rintro ⟨j, hj, e⟩
    rw [rowMask_eq_maskOfMatch, ← e, ← rowMask_eq_maskOfMatch]
    exact match_of_decode hj
  case oneRow => rw [rowMatch_eq_of_match hi, rowMatch_eq_of_match hj]
  all_goals
    simp only [decode_eq_ok_iff, IsWordOf, HasFields, field_op, field_dir, field_rsvdLo, field_slot, field_srcSlot,
      field_rsvdHi, field_7_4_eq_zero, field_31_12_eq_zero, field_31_4_eq_zero]
    tauto

end Sys2Proof.Machine

/-! ## Illegal words -/

namespace Sys2Proof.Machine

/-- 30_encoding.md R97: (a), (b), and (c) command by command. -/
theorem decode_error_iff (w : Word) :
    (∃ e, decode w = .error e) ↔
      (opField w = 0 ∨ 7 ≤ opField w) ∨ (rsvdHiField w ≠ 0 ∨ rsvdLoField w ≠ 0) ∨
      (opField w = 1 ∧ (dirField w ≠ 0 ∨ slotField w ≠ 0 ∨ srcSlotField w ≠ 0)) ∨
      ((opField w = 3 ∨ opField w = 4 ∨ opField w = 5) ∧ (dirField w ≠ 0 ∨ srcSlotField w ≠ 0)) ∨
      (opField w = 2 ∧ srcSlotField w ≠ 0) ∨ (opField w = 6 ∧ dirField w ≠ 0) := by
  unfold decode
  split
  · rename_i h
    simp [h]
  · rename_i h
    split
    case h_7 =>
      have hop : opField w = 0 ∨ 7 ≤ opField w := by
        simp only [imp_false] at *
        omega
      simp [hop]
    all_goals simp_all [unusedZero_error]

theorem completed_complete (s : State) (r : ResultCode) (c : CauseCode) : s.completed (s.complete r c) r c := by
  simp [State.completed, State.sameHostSide]

/-- An illegal word's step, in whichever phase, is its completion (30_encoding.md R97). -/
theorem engineStep_illegal {s : State} {e : DecodeError} (hb : s.status.busy = true) (hp : s.phase ≠ .idle)
    (he : decode s.latch.cmd = .error e) : engineStep s = .next (s.complete .badParameters .illegalCmd) := by
  simp [engineStep, hb, hp, he, illegalCommand]

/-- Settles O5: the branches of the decoder for the words, acceptance and completion for what they do. -/
theorem illegalWordsAreReported : Obligations.IllegalWordsAreReported := by
  refine fun w => ⟨?_, fun s ⟨e, he⟩ => ⟨fun hb => ?_, fun hb hp hw => ?_⟩⟩
  · rw [field_op, field_dir, field_rsvdLo, field_slot, field_srcSlot, field_rsvdHi]
    exact decode_error_iff w
  · simp [State.writeCmd, hb]
  · have hstep := engineStep_illegal hb (by simp [hp]) (hw ▸ he)
    exact ⟨_, hstep, completed_complete s _ _, rfl, rfl, rfl⟩

end Sys2Proof.Machine

/-! ## The engine's turn and the acceptance of a command -/

namespace Sys2Proof.Machine

/-- At the engine's turn the machine takes the engine's step. -/
theorem step_of_engineTurn {s u : State} (h : s.engineTurn u) : step s = engineStep u := by
  obtain ⟨hi, rfl⟩ | ⟨rest, hi, rfl⟩ := h <;> simp only [step, hi]

/-- While a command is in flight the engine's step is that command's (40_sequencer.md R122). -/
theorem engineStep_decoded {s : State} {i : Instr} (hb : s.status.busy = true) (hp : s.phase ≠ .idle)
    (hi : decode s.latch.cmd = .ok i) : engineStep s = exec i s := by
  simp [engineStep, hb, hp, hi]

/-- A host's write to CMD goes through the window (10_state.md R21). -/
theorem step_cmdWrite {s : State} {w : Word} {rest : List Input}
    (hi : s.inputs = .host (.writeReg s.params.base .word w) :: rest) :
    step s = .next (State.writeReg { s with inputs := rest } .cmd w) := by
  have hw : windowAccess { s with inputs := rest } s.params.base .word = .ok .cmd :=
    windowAccess_word { s with inputs := rest } (off := 0) (by decide) rfl
  simp only [step, hi, hostStep, hostWriteReg, hw]

/-- Settles O20: a CMD write while BUSY = 0 is the acceptance. -/
theorem cmdWriteIsAccepted : Obligations.CmdWriteIsAccepted := by
  intro s w rest hb hi
  obtain ⟨hb', -⟩ | ⟨-, e⟩ := writeReg_cmd_cases { s with inputs := rest } w
  · exact nomatch hb.symm.trans hb'
  · rw [step_cmdWrite hi, e]
    rfl

/-- Settles O21: a CMD write while BUSY = 1 is the overrun. -/
theorem cmdWriteWhileBusyIsDropped : Obligations.CmdWriteWhileBusyIsDropped := by
  intro s w rest hb hi
  obtain ⟨-, e⟩ | ⟨hb', -⟩ := writeReg_cmd_cases { s with inputs := rest } w
  · rw [step_cmdWrite hi, e]
    rfl
  · exact nomatch hb.symm.trans hb'

/-- Settles O22: with BUSY = 0 the engine's step stutters. -/
theorem idleEngineHasNoStep : Obligations.IdleEngineHasNoStep := by
  intro s u hu hb
  rw [step_of_engineTurn hu]
  obtain ⟨rest, rfl⟩ := hu.eq
  exact if_pos (.inl hb)

/-- Settles O23: the turn taken off the pending inputs changes neither BUSY nor the phase nor the latch. -/
theorem stepRunsTheCommandInFlight : Obligations.StepRunsTheCommandInFlight := by
  intro s u i hu hb hp hi
  rw [step_of_engineTurn hu]
  obtain ⟨rest, rfl⟩ := hu.eq
  exact engineStep_decoded hb hp hi

end Sys2Proof.Machine

/-! ## The CHECK step -/

namespace Sys2Proof.Machine

/-- INIT's CHECK step, row by row (40_sequencer.md R123). -/
theorem exec_init_check (n : Nat) (d : Dir) {s : State} (hp : s.phase ≠ .execInit) :
    exec (.init n d) s = .next
      (if s.params.numSlots ≤ n then s.complete .badParameters .slotRange
       else if (s.slot n).state ≠ .allocated then s.complete .badState .seq
       else if s.lKeyLen ≠ s.params.keyBytes then s.complete .badParameters .keyLen
       else if s.lIvLen ≠ s.params.blockBytes then s.complete .badParameters .ivLen
       else if s.lKeyAddr + s.params.keyBytes > 2 ^ 32 ∨ s.lIvAddr + s.params.blockBytes > 2 ^ 32 then
         s.complete .badParameters .addrRange
       else s.enter .execInit) := by
  rw [exec, execInit_check n d hp, runChecks]
  obtain ⟨h1, e⟩ | ⟨h1, h2, e⟩ | ⟨h1, h2, h3, e⟩ | ⟨h1, h2, h3, h4, e⟩ | ⟨h1, h2, h3, h4, h5, e⟩ |
    ⟨⟨h1, h2, h3, h4, h5, h6⟩, e⟩ := initChecks_cases n s <;> rw [e]
  · rw [if_pos h1]
  · rw [if_neg (by omega), if_pos h2]
  · rw [if_neg (by omega), if_neg (not_not.2 h2), if_pos h3]
  · rw [if_neg (by omega), if_neg (not_not.2 h2), if_neg (not_not.2 h3), if_pos h4]
  · rw [if_neg (by omega), if_neg (not_not.2 h2), if_neg (not_not.2 h3), if_neg (not_not.2 h4), if_pos h5]
  · rw [if_neg (by omega), if_neg (not_not.2 h2), if_neg (not_not.2 h3), if_neg (not_not.2 h4), if_neg (by omega)]

/-- UPDATE's CHECK step, row by row (40_sequencer.md R123). -/
theorem exec_update_check (n : Nat) {s : State} (hp : s.phase ≠ .execBlock) :
    exec (.update n) s = .next
      (if s.params.numSlots ≤ n then s.complete .badParameters .slotRange
       else if (s.slot n).state ≠ .ready then s.complete .badState .seq
       else if s.lLen % s.params.blockBytes ≠ 0 then s.complete .badParameters .dataLen
       else if s.lSrcAddr + s.lLen > 2 ^ 32 ∨ s.lDstAddr + s.lLen > 2 ^ 32 then
         s.complete .badParameters .addrRange
       else startBlocks s) := by
  rw [exec, execUpdate_check n hp, runChecks]
  obtain ⟨h1, e⟩ | ⟨h1, h2, e⟩ | ⟨h1, h2, h3, e⟩ | ⟨h1, h2, h3, h4, e⟩ | ⟨⟨h1, h2, h3, h4, h5⟩, e⟩ :=
    updateChecks_cases n s <;> rw [e]
  · rw [if_pos h1]
  · rw [if_neg (by omega), if_pos h2]
  · rw [if_neg (by omega), if_neg (not_not.2 h2), if_pos h3]
  · rw [if_neg (by omega), if_neg (not_not.2 h2), if_neg (not_not.2 h3), if_pos h4]
  · rw [if_neg (by omega), if_neg (not_not.2 h2), if_neg (not_not.2 h3), if_neg (by omega)]

/-- FINAL, row by row (40_sequencer.md R123). -/
theorem exec_final_eq (n : Nat) (s : State) :
    exec (.final n) s = .next
      (if s.params.numSlots ≤ n then s.complete .badParameters .slotRange
       else if (s.slot n).state ≠ .ready then s.complete .badState .seq
       else finalEffect n s) := by
  rw [exec]
  obtain ⟨h1, e⟩ | ⟨h1, h2, e⟩ | ⟨h1, h2, e⟩ := execFinal_cases n s <;> rw [e]
  · rw [if_pos h1]
  · rw [if_neg (by omega), if_pos h2]
  · rw [if_neg (by omega), if_neg (not_not.2 h2)]
    rfl

/-- FREE, row by row (40_sequencer.md R123). -/
theorem exec_free_eq (n : Nat) (s : State) :
    exec (.free n) s = .next
      (if s.params.numSlots ≤ n then s.complete .badParameters .slotRange
       else if (s.slot n).state = .free then s.complete .badState .seq
       else freeEffect n s) := by
  rw [exec]
  obtain ⟨h1, e⟩ | ⟨h1, h2, e⟩ | ⟨h1, h2, e⟩ := execFree_cases n s <;> rw [e]
  · rw [if_pos h1]
  · rw [if_neg (by omega), if_pos h2]
  · rw [if_neg (by omega), if_neg h2]
    rfl

/-- COPY, row by row (40_sequencer.md R123, R127). -/
theorem exec_copy_eq (t r : Nat) (s : State) :
    exec (.copy t r) s = .next
      (if s.params.numSlots ≤ t ∨ s.params.numSlots ≤ r then s.complete .badParameters .slotRange
       else if (s.slot r).state ≠ .ready ∨ (s.slot t).state = .free ∨ (s.slot t).state = .failed then
         s.complete .badState .seq
       else copyEffect t r s) := by
  rw [exec]
  obtain ⟨h1, e⟩ | ⟨h1, h2, h3, e⟩ | ⟨h1, h2, h3, h4, e⟩ := execCopy_cases t r s <;> rw [e]
  · rw [if_pos h1]
  · rw [if_neg (by omega), if_pos h3]
  · rw [if_neg (by omega), if_neg]
    rintro (h | h | h)
    · exact h h3
    all_goals simp [h] at h4

/-- Settles O24: by the CHECK step of each command, row by row. -/
theorem checksRunInOrder : Obligations.ChecksRunInOrder := by
  intro s hb hp
  have hstep : ∀ {i}, decode s.latch.cmd = .ok i → engineStep s = exec i s := engineStep_decoded hb (by simp [hp])
  refine ⟨fun ⟨_, he⟩ => engineStep_illegal hb (by simp [hp]) he, fun hi hn => ?_, fun n d hi => ?_, fun n hi => ?_,
    fun n hi => ?_, fun n hi => ?_, fun t r hi => ?_⟩ <;> rw [hstep hi]
  · obtain ⟨-, e⟩ | ⟨n, hf, -⟩ := execAlloc_cases s
    · exact e
    · exact nomatch hf.symm.trans (firstFree_eq_none.2 hn)
  · exact exec_init_check n d (by simp [hp])
  · rw [exec_update_check n (by simp [hp])]
    refine ⟨fun h1 => ?_, fun h1 h2 => ?_, fun h1 h2 h3 => ?_, fun h1 h2 h3 h4 => ?_⟩
    · rw [if_pos h1]
    · rw [if_neg (by omega), if_pos h2]
    · rw [if_neg (by omega), if_neg (not_not.2 h2), if_pos h3]
    · rw [if_neg (by omega), if_neg (not_not.2 h2), if_neg (not_not.2 h3), if_pos h4]
  · rw [exec_final_eq]
    exact ⟨fun h1 => by rw [if_pos h1], fun h1 h2 => by rw [if_neg (by omega), if_pos h2]⟩
  · rw [exec_free_eq]
    exact ⟨fun h1 => by rw [if_pos h1], fun h1 h2 => by rw [if_neg (by omega), if_pos h2]⟩
  · rw [exec_copy_eq]
    exact ⟨fun h1 => by rw [if_pos h1], fun h1 h2 h3 => by rw [if_neg (by omega), if_pos h3]⟩

/-- A CHECK step that ends a command with an error is a completion of the state before it: a failing check, and no failure
in execution. -/
theorem CommandStep.rejection {s t : State} {i : Instr} (hc : CommandStep s i t) (hp : s.phase = .check)
    (hb : s.status.busy = true) (hend : t.status.busy = false) (hr : t.status.result ≠ .success) :
    t = s.complete t.status.result t.status.cause := by
  cases hc with
  | rejected => rfl
  | initBusError hp' | initKeyError hp' | initDone hp' | blockReadError hp' | blockXformError hp' | blockWriteError hp'
    | blockLast hp' | blockNext hp' => exact nomatch hp.symm.trans hp'
  | initChecked | updateChecked => exact nomatch hb.symm.trans hend
  | allocated | updateEmpty | finalized | freed | copiedSelf | copied => exact absurd rfl hr

/-- Settles O25: a completion keeps the slots, memory and the count of backend calls. -/
theorem failedChecksChangeNothing : Obligations.FailedChecksChangeNothing := by
  intro s t hb hp hs hend hr
  have ht : t = s.complete t.status.result t.status.cause := by
    obtain ⟨h | h, -⟩ | ⟨-, -, -, rfl⟩ | ⟨-, -, i, -, hc⟩ := engineStep_commandStep hs
    · exact nomatch hb.symm.trans h
    · exact nomatch hp.symm.trans h
    · rfl
    · exact hc.rejection hp hb hend hr
  rw [ht]
  exact ⟨rfl, rfl, rfl, rfl⟩

/-- A state that has not completed with BAD_STATE is not a rejection by the validator. -/
theorem seq_ne {s t : State} (h : t.status.result = .badState → t.phase ≠ .idle) :
    s.complete .badState .seq ≠ t := by
  rintro rfl
  exact h rfl rfl

/-- Check 3 decides between two states that differ, once check 2 has passed. -/
theorem next_check_eq_iff {p q : Prop} [Decidable p] [Decidable q] {a b c : State} (hp : ¬ p) (hne : b ≠ c) :
    (Host.Outcome.next (if p then a else if q then b else c) : Host.Outcome State Fault Refusal) = .next b ↔ q := by
  rw [if_neg hp, Host.Outcome.next.injEq, hne.ite_eq_left_iff]

theorem seq_ne_startBlocks (s : State) : s.complete .badState .seq ≠ startBlocks s := by
  unfold startBlocks
  split
  · exact seq_ne fun h => nomatch h
  · exact seq_ne fun _ h => nomatch h

/-- Settles O26: with the index in range check 3 decides, and no other outcome of the step is BAD_STATE, SEQ. -/
theorem validatorFollowsTheTable : Obligations.ValidatorFollowsTheTable := by
  intro s n r hp hn hr
  refine ⟨fun d => ?_, ?_, ?_, ?_, ?_⟩
  · rw [exec_init_check n d (by simp [hp])]
    refine next_check_eq_iff (by omega) ?_
    split_ifs
    on_goal 4 => exact seq_ne fun _ h => nomatch h
    all_goals exact seq_ne fun h => nomatch h
  · rw [exec_update_check n (by simp [hp])]
    refine next_check_eq_iff (by omega) ?_
    split_ifs
    on_goal 3 => exact seq_ne_startBlocks s
    all_goals exact seq_ne fun h => nomatch h
  · rw [exec_final_eq]
    exact next_check_eq_iff (by omega) (seq_ne fun h => nomatch h)
  · rw [exec_free_eq]
    exact next_check_eq_iff (by omega) (seq_ne fun h => nomatch h)
  · rw [exec_copy_eq]
    refine next_check_eq_iff (by omega) ?_
    unfold copyEffect
    split_ifs
    all_goals exact seq_ne fun h => nomatch h

/-- Settles O42: every check passes, and the block count is not 0. -/
theorem updateStartsItsBlocks : Obligations.UpdateStartsItsBlocks := by
  intro s n hp hw hr hl
  have hblocks : s.setBlockCount.latch.nblk ≠ 0 :=
    (Nat.div_pos (Nat.le_of_dvd hl (Nat.dvd_of_mod_eq_zero hr.dataLen)) (blockBytes_pos hw)).ne'
  rw [exec, execUpdate_check n (by simp [hp]), runChecks_pass _ (updateChecks_pass.2 hr), startBlocks, if_neg hblocks]
  rfl

/-- The pair that a command's step reports is a legal one (60_exceptions.md R232). -/
theorem CommandStep.reports_legal {s t : State} {i : Instr} (hc : CommandStep s i t) :
    t.status = s.status ∨ legalPair t.status.result t.status.cause = true := by
  cases hc with
  | rejected _ hl => exact .inr hl
  | initChecked | updateChecked | blockNext => exact .inl rfl
  | _ => exact .inr rfl

/-- Settles O29: a step that ends the command completes it, and a step that works on keeps BUSY. -/
theorem completionClearsTheEngine : Obligations.CompletionClearsTheEngine := by
  intro s t hb hp hs hend
  have hne : t.status ≠ s.status := fun e => nomatch (e ▸ hb).symm.trans hend
  obtain ⟨h | h, -⟩ | ⟨-, -, -, rfl⟩ | ⟨-, -, i, -, hc⟩ := engineStep_commandStep hs
  · exact nomatch hb.symm.trans h
  · exact absurd h hp
  · exact ⟨completed_complete s _ _, rfl⟩
  · exact ⟨hc.ends_or_works.resolve_right fun h => hne h.2.1, hc.reports_legal.resolve_left hne⟩

end Sys2Proof.Machine

/-! ## The lifecycle of a slot over every step of the machine -/

namespace Sys2Proof.Machine

/-- The row of R129 by which the engine step from `s` to `t`, one of command `i`, changes the state of slot `n`. -/
def State.lifecycleRow (s t : State) (i : Instr) (n : Nat) : Prop :=
  (i = .alloc ∧ s.firstFree = some n ∧ (s.slot n).state = .free ∧ (t.slot n).state = .allocated ∧
    t.status.result = .success) ∨
  ((∃ d, i = .init n d) ∧ (s.slot n).state = .allocated ∧ (t.slot n).state = .ready ∧ t.status.result = .success) ∨
  ((∃ d, i = .init n d) ∧ s.phase = .execInit ∧ (s.slot n).state = .allocated ∧ (t.slot n).state = .failed ∧
    (t.status.cause = .keyExpand ∨ t.status.cause = .busError)) ∨
  (i = .update n ∧ s.phase = .execBlock ∧ (s.slot n).state = .ready ∧ (t.slot n).state = .failed ∧
    (t.status.cause = .blockXform ∨ t.status.cause = .busError)) ∨
  (i = .final n ∧ (s.slot n).state = .ready ∧ (t.slot n).state = .finalized ∧ t.status.result = .success) ∨
  (i = .free n ∧ (t.slot n).state = .free ∧ t.status.result = .success) ∨
  (∃ r, i = .copy n r ∧ r ≠ n ∧ (s.slot r).state = .ready ∧
    ((s.slot n).state = .allocated ∨ (s.slot n).state = .finalized) ∧ (t.slot n).state = .ready ∧
    t.status.result = .success)

/-- A failure leaves its slot FAILED (40_sequencer.md R126). -/
theorem slot_fail_state {s : State} {n : Nat} (c : CauseCode) (hn : n < s.slots.length) :
    ((s.fail n c).slot n).state = .failed :=
  congrArg Slot.state (slot_setSlot_same s (s.slot n).failedKeep hn)

/-- A slot written by the step that ends a command reads back. -/
theorem slot_complete_setSlot {s : State} {n : Nat} (v : Slot) (r : ResultCode) (c : CauseCode)
    (hn : n < s.slots.length) : ((s.setSlot n v).complete r c).slot n = v :=
  slot_setSlot_same s v hn

/-- INIT's row of a failure in EXEC_INIT. -/
theorem lifecycleRow_initFail {s u : State} {n : Nat} {d : Dir} {c : CauseCode} (hp : s.phase = .execInit)
    (hr : s.InitReady n) (hn : n < u.slots.length) (hc : c = .keyExpand ∨ c = .busError) :
    s.lifecycleRow (u.fail n c) (.init n d) n :=
  .inr (.inr (.inl ⟨⟨d, rfl⟩, hp, hr.allocated, slot_fail_state c hn, hc⟩))

/-- UPDATE's row of a failure in EXEC_BLOCK. -/
theorem lifecycleRow_blockFail {s u : State} {n : Nat} {c : CauseCode} (hp : s.phase = .execBlock)
    (hr : s.UpdateReady n) (hn : n < u.slots.length) (hc : c = .blockXform ∨ c = .busError) :
    s.lifecycleRow (u.fail n c) (.update n) n :=
  .inr (.inr (.inr (.inl ⟨rfl, hp, hr.ready, slot_fail_state c hn, hc⟩)))

@[simp] theorem initLoaded_length (s : State) (n : Nat) (d : Dir) :
    (s.initLoaded n d).slots.length = s.slots.length := by
  simp [State.initLoaded, slots_loadIv]

/-- A command's step changes the state of its own slot only by completing, along a row of R129. -/
theorem CommandStep.lifecycleRow {s t : State} {i : Instr} {n : Nat} (hc : CommandStep s i t) (h : s.Inv)
    (hi : decode s.latch.cmd = .ok i) (hn : n < s.slots.length) (ht : s.targets i n)
    (hne : (t.slot n).state ≠ (s.slot n).state) : t.status.busy = false ∧ s.lifecycleRow t i n := by
  cases hc with
  | rejected | updateEmpty | initChecked | updateChecked | copiedSelf => exact absurd rfl hne
  | allocated hf =>
    cases Option.some.inj (hf.symm.trans ht)
    exact ⟨rfl, .inl ⟨rfl, hf, (firstFree_eq_some.1 hf).2.1,
      congrArg Slot.state (slot_setSlot_same s (Slot.allocated s.params.blockBytes) hn), rfl⟩⟩
  | initBusError hp =>
    cases ht
    exact ⟨rfl, lifecycleRow_initFail hp (h.initReady hp hi) hn (.inr rfl)⟩
  | initKeyError hp =>
    cases ht
    exact ⟨rfl, lifecycleRow_initFail hp (h.initReady hp hi) (by simpa using hn) (.inl rfl)⟩
  | initDone hp =>
    cases ht
    exact ⟨rfl, .inr (.inl ⟨⟨_, rfl⟩, (h.initReady hp hi).allocated,
      congrArg Slot.state (slot_complete_setSlot _ _ _ (by simpa using hn)), rfl⟩)⟩
  | blockReadError hp | blockWriteError hp =>
    cases ht
    exact ⟨rfl, lifecycleRow_blockFail hp (h.updateReady hp hi) hn (.inr rfl)⟩
  | blockXformError hp =>
    cases ht
    exact ⟨rfl, lifecycleRow_blockFail hp (h.updateReady hp hi) hn (.inl rfl)⟩
  | blockLast | blockNext =>
    cases ht
    exact absurd (congrArg Slot.state (slot_blockStored hn)) hne
  | finalized hr =>
    cases ht
    exact ⟨rfl, .inr (.inr (.inr (.inr (.inl ⟨rfl, hr,
      congrArg Slot.state (slot_complete_setSlot _ _ _ hn), rfl⟩))))⟩
  | freed =>
    cases ht
    exact ⟨rfl, .inr (.inr (.inr (.inr (.inr (.inl ⟨rfl,
      congrArg Slot.state (slot_complete_setSlot _ _ _ hn), rfl⟩)))))⟩
  | @copied _ r hnr hr hd =>
    cases ht
    have hready := congrArg Slot.state (slot_complete_setSlot { s.slot r with state := .ready } .success .none hn)
    refine ⟨rfl, .inr (.inr (.inr (.inr (.inr (.inr ⟨r, rfl, hnr.symm, hr, ?_, hready, rfl⟩)))))⟩
    obtain ha | hready' | hf := hd
    · exact .inl ha
    · exact absurd (hready.trans hready'.symm) hne
    · exact .inr hf

/-- Every slot is FREE after a reset (70_reset_and_hazards.md R271). -/
theorem slot_platformReset (s : State) (n : Nat) :
    s.platformReset.slot n = Slot.erased s.params.blockBytes := by
  by_cases hn : n < s.params.numSlots <;> simp [State.slot, State.platformReset, State.clearController, hn]

/-- Settles O28: the engine changes a slot's state by its command's row alone, a host never, and a reset frees it. -/
theorem lifecycleTransitions : Obligations.LifecycleTransitions := by
  intro s t n h hn hs hne
  obtain ⟨u, hu, he⟩ | ⟨op, rest, -, ho⟩ | ⟨rest, hi, rfl⟩ := step_agent hs
  · obtain ⟨rest, rfl⟩ := hu.eq
    obtain ⟨-, rfl⟩ | ⟨-, -, -, rfl⟩ | ⟨hb, -, i, hi, hc⟩ := engineStep_commandStep he
    · exact absurd rfl hne
    · exact absurd rfl hne
    · have ht : State.targets { s with inputs := rest } i n := by
        by_contra ht
        exact hne (congrArg Slot.state (hc.slot_other ht))
      obtain ⟨hend, hrow⟩ := hc.lifecycleRow (h.hostFields ..) hi (h.slotCount ▸ hn) ht hne
      exact .inr ⟨⟨_, hu⟩, hb, hend, i, hi, hrow⟩
  · obtain ⟨hp, hslots, -⟩ := hostStep_frame ho
    exact absurd (congrArg Slot.state (slot_congr n hslots hp)) hne
  · exact .inl ⟨⟨rest, hi⟩, congrArg Slot.state (slot_platformReset _ n)⟩

/-- A command in flight that is neither INIT nor UPDATE is in its CHECK step. -/
theorem State.Inv.phase_check {s : State} {i : Instr} (h : s.Inv) (hb : s.status.busy = true)
    (hi : decode s.latch.cmd = .ok i) (hinit : ∀ n d, i ≠ .init n d) (hupdate : ∀ n, i ≠ .update n) :
    s.phase = .check := by
  cases hq : s.phase with
  | idle => exact absurd hq (h.phase.busyIff.1 hb)
  | check => rfl
  | execInit =>
    obtain ⟨n, d, hm, -⟩ := h.phase.execInit hq
    exact absurd (Except.ok.inj (hi.symm.trans hm)) (hinit n d)
  | execBlock =>
    obtain ⟨n, hm, -⟩ := h.phase.execBlock hq
    exact absurd (Except.ok.inj (hi.symm.trans hm)) (hupdate n)

/-- Settles O27: the validator's table for what a FAILED slot accepts, the table of R129 for what takes it out of
FAILED. -/
theorem failedSlotsAcceptOnlyFree : Obligations.FailedSlotsAcceptOnlyFree := by
  constructor
  · intro s n m hp hn hm hf
    obtain ⟨hinit, hupdate, hfinal, -, hcopy⟩ := validatorFollowsTheTable s n m hp hn hm
    obtain ⟨-, -, -, -, hcopyFrom⟩ := validatorFollowsTheTable s m n hp hm hn
    refine ⟨fun d => (hinit d).2 (by simp [hf]), hupdate.2 (by simp [hf]), hfinal.2 (by simp [hf]),
      hcopy.2 (.inr (.inr hf)), hcopyFrom.2 (.inl (by simp [hf])), ?_⟩
    rw [exec_free_eq, if_neg (by omega), if_neg (by simp [hf])]
    exact ⟨_, rfl, fun hl => congrArg Slot.state (slot_complete_setSlot _ _ _ hl)⟩
  · intro s t n h hn hs hf hne
    obtain ⟨hreset, -⟩ | ⟨⟨u, hu⟩, hb, -, i, hi, hrow⟩ := lifecycleTransitions s t n h hn hs (hf ▸ hne)
    · exact .inl hreset
    obtain ⟨-, -, hst, -⟩ | ⟨-, hst, -⟩ | ⟨-, -, hst, -⟩ | ⟨-, -, hst, -⟩ | ⟨-, hst, -⟩ | ⟨rfl, hfree, -⟩ |
      ⟨_, -, -, -, hst | hst, -⟩ := hrow
    on_goal 6 =>
      exact .inr ⟨u, hu, hi, h.phase_check hb hi (fun _ _ => nofun) (fun _ => nofun), hfree⟩
    all_goals exact nomatch hf.symm.trans hst

end Sys2Proof.Machine

/-! ## Every accepted command completes -/

namespace Sys2Proof.Machine

/-- A command's step ends it, or it is INIT's or UPDATE's CHECK step with the checks passed, or UPDATE goes on to its next
block (40_sequencer.md R122). -/
theorem CommandStep.ends_or_goes_on {s t : State} {i : Instr} (h : CommandStep s i t) :
    (t.status.busy = false ∧ t.event.done = true) ∨
    (∃ n d, i = .init n d ∧ s.phase ≠ .execInit ∧ t = s.enter .execInit) ∨
    (∃ n, i = .update n ∧ s.phase ≠ .execBlock ∧ t = s.setBlockCount.enter .execBlock) ∨
    (∃ n, i = .update n ∧ s.phase = .execBlock ∧ t = (s.blockStored n).countBlock) := by
  cases h with
  | initChecked hp => exact .inr (.inl ⟨_, _, rfl, hp, rfl⟩)
  | updateChecked hp => exact .inr (.inr (.inl ⟨_, rfl, hp, rfl⟩))
  | blockNext hp => exact .inr (.inr (.inr ⟨_, rfl, hp, rfl⟩))
  | _ => exact .inl ⟨rfl, rfl⟩

/-- Within `b` steps, but not at once, the machine is in a state that a command has completed into. -/
def State.completesWithin (s : State) (b : Nat) : Prop :=
  ∃ k t, stepN k s = .next t ∧ t.status.busy = false ∧ t.event.done = true ∧ 1 ≤ k ∧ k ≤ b

theorem completesWithin_of_ended {s t : State} {b : Nat} (hs : step s = .next t) (hb : t.status.busy = false)
    (hd : t.event.done = true) (hpos : 1 ≤ b) : s.completesWithin b :=
  ⟨1, t, by simp [stepN, hs], hb, hd, le_rfl, hpos⟩

theorem State.completesWithin.of_step {s t : State} {b : Nat} (hs : step s = .next t) (h : t.completesWithin b) :
    s.completesWithin (b + 1) := by
  obtain ⟨k, u, hk, hb, hd, -, hle⟩ := h
  exact ⟨k + 1, u, by simp [stepN, hs, hk], hb, hd, by omega, by omega⟩

/-- With nothing pending the machine's step is one of the command in flight. -/
theorem step_commandStep {s : State} {i : Instr} (hin : s.inputs = []) (hb : s.status.busy = true)
    (hp : s.phase ≠ .idle) (hi : decode s.latch.cmd = .ok i) : ∃ t, step s = .next t ∧ CommandStep s i t := by
  obtain ⟨t, ht⟩ := exec_next i s
  refine ⟨t, ?_, commandStep_of_exec ht⟩
  rw [step_of_engineTurn (.inl ⟨hin, rfl⟩), engineStep_decoded hb hp hi, ht]

/-- INIT ends in its EXEC_INIT step (41_alloc_init.md R143). -/
theorem completesWithin_execInit {s : State} (h : s.Inv) (hin : s.inputs = []) (hp : s.phase = .execInit) :
    s.completesWithin 1 := by
  obtain ⟨n, d, hi, -⟩ := h.phase.execInit hp
  obtain ⟨t, hs, hc⟩ := step_commandStep hin (h.phase.busyIff.2 (by simp [hp])) (by simp [hp]) hi
  obtain ⟨hb, hd⟩ | ⟨_, _, -, hp', -⟩ | ⟨_, e, -⟩ | ⟨_, e, -⟩ := hc.ends_or_goes_on
  · exact completesWithin_of_ended hs hb hd le_rfl
  · exact absurd hp hp'
  · cases e
  · cases e

/-- UPDATE ends with its last block at the latest: one step a block that is left (42_update.md R160). -/
theorem completesWithin_execBlock {s : State} {b : Nat} (h : s.Inv) (hin : s.inputs = []) (hp : s.phase = .execBlock)
    (hleft : s.latch.nblk = s.latch.i + b) : s.completesWithin b := by
  induction b generalizing s with
  | zero =>
    obtain ⟨_, -, -, -, hlt⟩ := h.phase.execBlock hp
    omega
  | succ b ih =>
    obtain ⟨n, hi, -⟩ := h.phase.execBlock hp
    obtain ⟨t, hs, hc⟩ := step_commandStep hin (h.phase.busyIff.2 (by simp [hp])) (by simp [hp]) hi
    obtain ⟨hb, hd⟩ | ⟨_, _, e, -⟩ | ⟨_, -, hp', -⟩ | ⟨m, -, -, rfl⟩ := hc.ends_or_goes_on
    · exact completesWithin_of_ended hs hb hd (by omega)
    · cases e
    · exact absurd hp hp'
    · refine .of_step hs (ih (everyStepKeepsTheInvariant _ _ h hs) hin (by simpa using hp) ?_)
      simp only [countBlock_latch, blockStored_latch]
      omega

/-- Settles O33: the CHECK step ends the command, or leaves EXEC_INIT with one step to go or EXEC_BLOCK with one step a
block. -/
theorem everyCommandCompletes : Obligations.EveryCommandCompletes := by
  intro s h hin hp
  have hb : s.status.busy = true := h.phase.busyIff.2 (by simp [hp])
  change s.completesWithin _
  cases hi : decode s.latch.cmd with
  | error e =>
    have hs := (step_of_engineTurn (.inl ⟨hin, rfl⟩)).trans (engineStep_illegal hb (by simp [hp]) hi)
    exact completesWithin_of_ended hs rfl rfl le_rfl
  | ok i =>
    obtain ⟨t, hs, hc⟩ := step_commandStep hin hb (by simp [hp]) hi
    have ht := everyStepKeepsTheInvariant _ _ h hs
    obtain ⟨htb, hd⟩ | ⟨n, d, rfl, -, rfl⟩ | ⟨n, rfl, -, rfl⟩ | ⟨_, -, hp', -⟩ := hc.ends_or_goes_on
    · exact completesWithin_of_ended hs htb hd (by cases i <;> simp)
    · exact (completesWithin_execInit ht hin rfl).of_step hs
    · rw [Nat.add_comm]
      exact (completesWithin_execBlock ht hin rfl (by simp [(h.phase.check hp).2])).of_step hs
    · exact nomatch hp.symm.trans hp'

end Sys2Proof.Machine

/-! ## ALLOC and INIT -/

namespace Sys2Proof.Machine

/-- A command's step leaves the slot file as it was but for slot `n`, the one that it writes (10_state.md R30). -/
theorem CommandStep.onlySlot {s t : State} {i : Instr} {n : Nat} (h : CommandStep s i t)
    (ht : ∀ m, s.targets i m → n = m) : s.onlySlot t n :=
  ⟨h.slots_length, fun m hm => h.slot_other fun hi => hm (ht m hi).symm⟩

/-- A command's step that ends in a completion has completed the command with its pair (40_sequencer.md R125). -/
theorem CommandStep.completed {s u : State} {i : Instr} {r : ResultCode} {c : CauseCode}
    (h : CommandStep s i (u.complete r c)) : s.completed (u.complete r c) r c := by
  obtain ⟨hp, -⟩ := h.sameHostSide
  exact ⟨rfl, rfl, rfl, rfl, rfl, rfl, congrArg (fun p : Params => zeros p.keyBytes) hp,
    congrArg (fun p : Params => zeros p.blockBytes) hp, h.sameHostSide⟩

/-- Settles O38: the two cases of ALLOC, told apart by the least FREE slot. -/
theorem allocTakesTheLeastFreeSlot : Obligations.AllocTakesTheLeastFreeSlot := by
  refine fun s => ⟨fun n hn hfree hleast => ?_, fun hfull => ?_⟩
  · have hf : s.firstFree = some n := firstFree_eq_some.2 ⟨hn, hfree, hleast⟩
    obtain ⟨h0, -⟩ | ⟨m, hm, e⟩ := execAlloc_cases s
    · exact nomatch h0.symm.trans hf
    · cases hm.symm.trans hf
      have hc : CommandStep s .alloc _ := .allocated hf
      exact ⟨_, e, slot_setSlot_same s _ hn, hc.onlySlot fun _ hm => Option.some.inj (hf.symm.trans hm), rfl,
        hc.completed, rfl, rfl, rfl⟩
  · obtain ⟨-, e⟩ | ⟨m, hm, -⟩ := execAlloc_cases s
    · exact ⟨_, e, rfl, rfl, completed_complete s _ _, rfl⟩
    · exact nomatch hm.symm.trans (firstFree_eq_none.2 hfull)

/-- A failure keeps the CV and DIR of its slot (40_sequencer.md R126). -/
theorem slot_fail_same {s : State} {n : Nat} (c : CauseCode) (hn : n < s.slots.length) :
    (s.fail n c).slot n = (s.slot n).failedKeep :=
  slot_complete_setSlot _ _ _ hn

/-- INIT's slot with its IV and direction, as the backend's answer finds it (41_alloc_init.md R143). -/
theorem slot_initLoaded {s : State} {n : Nat} (d : Dir) (hn : n < s.slots.length) :
    (s.initLoaded n d).slot n =
      { s.slot n with dir := d, cv := readBytes s.mem s.lIvAddr s.params.blockBytes } :=
  slot_loadIv d _ _ hn

/-- EXEC_INIT with a bus error on a read (41_alloc_init.md R148). -/
theorem exec_init_busError {s : State} (n : Nat) (d : Dir) (hp : s.phase = .execInit)
    (hr : rangeOk s.params s.lIvAddr s.params.blockBytes = false ∨
      rangeOk s.params s.lKeyAddr s.params.keyBytes = false) :
    exec (.init n d) s = .next (s.fail n .busError) := by
  obtain ⟨-, e⟩ | ⟨hiv, hkey, -⟩ := execInit_exec_cases n d hp
  · exact e
  · obtain h | h := hr
    · exact nomatch hiv.symm.trans h
    · exact nomatch hkey.symm.trans h

/-- EXEC_INIT with both reads done goes on to the expansion (41_alloc_init.md R143). -/
theorem exec_init_loaded {s : State} (n : Nat) (d : Dir) (hp : s.phase = .execInit)
    (hiv : rangeOk s.params s.lIvAddr s.params.blockBytes = true)
    (hkey : rangeOk s.params s.lKeyAddr s.params.keyBytes = true) :
    exec (.init n d) s = .next (expandAndCommit n d (s.initLoaded n d)) := by
  obtain ⟨h | h, -⟩ | ⟨-, -, e⟩ := execInit_exec_cases n d hp
  · exact nomatch hiv.symm.trans h
  · exact nomatch hkey.symm.trans h
  · exact e

/-- Settles O39: with both reads done the expansion is of the key just read, and it answers. -/
theorem initInstallsIvAndKeySchedule : Obligations.InitInstallsIvAndKeySchedule := by
  intro s n d hp hn hiv hkey hk hf
  have e := exec_init_loaded n d hp hiv hkey
  obtain ⟨h | h, -⟩ | ⟨-, -, he⟩ := expandAndCommit_cases n d (s.initLoaded n d)
  · exact nomatch hk.symm.trans h
  · exact nomatch hf.symm.trans h
  · rw [he] at e
    have hc := commandStep_of_exec e
    refine ⟨_, e, ?_, hc.onlySlot fun _ => id, hc.completed, rfl, rfl, rfl, rfl⟩
    rw [slot_complete_setSlot _ _ _ (by simpa using hn), slot_initLoaded d hn]
    rfl

/-- Settles O40: the slot is still as ALLOC left it, by the invariant, and the failure keeps its CV and DIR. -/
theorem initBusErrorFailsTheSlot : Obligations.InitBusErrorFailsTheSlot := by
  intro s n d h hp hi hr
  have e := exec_init_busError n d hp hr
  have hc := commandStep_of_exec e
  refine ⟨_, e, ?_, hc.onlySlot fun _ => id, hc.completed, rfl, rfl⟩
  have hready := h.initReady hp hi
  obtain ⟨hdir, hcv, -⟩ := (slot_ok h.slots n).fresh (.inr hready.allocated)
  rw [slot_fail_same _ (h.slotCount ▸ hready.inRange), Slot.failedKeep, hdir, hcv]

/-- Settles O41: with both reads done the slot has its IV and direction before the expansion of the key just read
fails. -/
theorem keyExpansionFailureFailsTheSlot : Obligations.KeyExpansionFailureFailsTheSlot := by
  intro s n d hp hn hiv hkey herr
  have e := exec_init_loaded n d hp hiv hkey
  obtain ⟨-, he⟩ | ⟨hk, hf, -⟩ := expandAndCommit_cases n d (s.initLoaded n d)
  · rw [he] at e
    have hc := commandStep_of_exec e
    refine ⟨_, e, ?_, hc.onlySlot fun _ => id, hc.completed, rfl, rfl⟩
    rw [slot_fail_same _ (by simpa using hn), slot_countCall, slot_initLoaded d hn]
    rfl
  · obtain h | h := herr
    · exact nomatch h.symm.trans hk
    · exact nomatch h.symm.trans hf

end Sys2Proof.Machine

/-! ## One step of UPDATE -/

namespace Sys2Proof.Machine

/-- UPDATE's EXEC_BLOCK step is its block step (42_update.md R160). -/
theorem exec_update_block {s : State} (n : Nat) (hp : s.phase = .execBlock) :
    exec (.update n) s = .next (blockStep n s) :=
  execUpdate_block n hp

/-- UPDATE's CHECK step with every check passed (42_update.md R160). -/
theorem exec_update_start {s : State} {n : Nat} (hp : s.phase = .check) (hr : s.UpdateReady n) :
    exec (.update n) s = .next (startBlocks s) := by
  rw [exec, execUpdate_check n (by simp [hp]), runChecks_pass _ (updateChecks_pass.2 hr)]

/-- With LEN = 0 there is no block to start (42_update.md R171). -/
theorem startBlocks_empty {s : State} (hl : s.lLen = 0) : startBlocks s = s.complete .success .none := by
  have hnblk : s.setBlockCount.latch.nblk = 0 := by simp [hl]
  rw [startBlocks, if_pos hnblk]
  rfl

/-- Settles O43: with LEN = 0 checks 6 and 7 pass for any addresses, and the block count is 0. -/
theorem updateOfLengthZeroSucceeds : Obligations.UpdateOfLengthZeroSucceeds := by
  intro s n hp hn hready hl
  have hsrc : s.lSrcAddr < 2 ^ 32 := s.latch.args.srcAddr.isLt
  have hdst : s.lDstAddr < 2 ^ 32 := s.latch.args.dstAddr.isLt
  have hr : s.UpdateReady n := ⟨hn, hready, by simp [hl], by omega, by omega⟩
  refine ⟨_, exec_update_start hp hr, ?_⟩
  rw [startBlocks_empty hl]
  exact ⟨completed_complete s _ _, rfl, rfl, rfl, rfl⟩

/-- With both ranges admitted and a backend that answers, the block is stored (42_update.md R161, R162). -/
theorem blockStep_stored {s : State} (n : Nat) (hin : rangeOk s.params s.blockIn s.params.blockBytes = true)
    (hout : rangeOk s.params s.blockOut s.params.blockBytes = true)
    (hf : oracleFails s.params.failures s.calls = false) : blockStep n s = nextBlock (s.blockStored n) := by
  simp [blockStep_eq, hin, hout, State.nextCallFails, hf]

/-- Reading back all of what was just written. -/
theorem readBytes_writeBytes_of_length {m : List Host.Cell} {a n : Nat} {bs : Bytes} (hm : Memory.wf m = true)
    (hlen : bs.length = n) : readBytes (writeBytes m a bs) a n = bs :=
  hlen ▸ readBytes_writeBytes_same hm a bs

/-- The destination block reads back as the block that was stored (42_update.md R165). -/
theorem readBytes_blockStored {s : State} {n : Nat} {out cv : Bytes} (hm : Memory.wf s.mem = true)
    (hres : blockResult s.params (s.slot n) (readBytes s.mem s.blockIn s.params.blockBytes) = (out, cv))
    (hlen : out.length = s.params.blockBytes) :
    readBytes (s.blockStored n).mem s.blockOut s.params.blockBytes = out := by
  have hmem : (s.blockStored n).mem = writeBytes s.mem s.blockOut out := by
    simp [State.blockStored, setCv, hres]
  rw [hmem, readBytes_writeBytes_of_length hm hlen]

/-- One block step without a failure, in either direction: the output block stored, the CV replaced, then the next block
or the completion (42_update.md R160, R165, R167). -/
theorem exec_update_stored {s : State} {n : Nat} {d : Dir} {out cv : Bytes} (hp : s.phase = .execBlock)
    (hm : Memory.wf s.mem = true) (hn : n < s.slots.length) (hd : (s.slot n).dir = d)
    (hin : rangeOk s.params s.blockIn s.params.blockBytes = true)
    (hout : rangeOk s.params s.blockOut s.params.blockBytes = true)
    (hf : oracleFails s.params.failures s.calls = false)
    (hres : blockResult s.params (s.slot n) (readBytes s.mem s.blockIn s.params.blockBytes) = (out, cv))
    (hlen : out.length = s.params.blockBytes) :
    ∃ t, exec (.update n) s = .next t ∧ readBytes t.mem s.blockOut s.params.blockBytes = out ∧
      s.onlyBytes t s.blockOut s.params.blockBytes ∧ t.slot n = ⟨(s.slot n).state, d, cv, (s.slot n).ks⟩ ∧
      s.onlySlot t n ∧
      t.calls = s.calls + 1 ∧ t.status.resultSlot = s.status.resultSlot ∧
      (if s.latch.i + 1 = s.latch.nblk then s.completed t .success .none
       else s.sameHostSide t ∧ t.status = s.status ∧ t.event = s.event ∧ t.phase = .execBlock ∧
        t.latch = ⟨s.latch.cmd, s.latch.args, s.latch.nblk, s.latch.i + 1⟩) := by
  have e : exec (.update n) s = .next (nextBlock (s.blockStored n)) := by
    rw [exec_update_block n hp, blockStep_stored n hin hout hf]
  have hread := readBytes_blockStored hm hres hlen
  have hslot : (s.blockStored n).slot n = ⟨(s.slot n).state, d, cv, (s.slot n).ks⟩ := by
    rw [slot_blockStored hn, hres, ← hd]
  obtain ⟨hi, hnext⟩ | ⟨hi, hnext⟩ := nextBlock_cases (s.blockStored n) <;> rw [hnext] at e
  · have hc := commandStep_of_exec e
    rw [blockStored_latch] at hi
    refine ⟨_, e, hread, onlyBytes_blockStored hm n, hslot, hc.onlySlot fun _ => id, rfl, rfl, ?_⟩
    rw [if_pos hi]
    exact hc.completed
  · have hc := commandStep_of_exec e
    rw [blockStored_latch] at hi
    refine ⟨_, e, hread, onlyBytes_blockStored hm n, hslot, hc.onlySlot fun _ => id, rfl, rfl, ?_⟩
    rw [if_neg hi]
    exact ⟨hc.sameHostSide, rfl, rfl, hp, rfl⟩

/-- Settles O44: the output block of an encrypting slot is also its next CV. -/
theorem encryptBlockStep : Obligations.EncryptBlockStep := by
  intro s n c hp hm hn hdir hin hout hf hc
  have hres : blockResult s.params (s.slot n) (readBytes s.mem s.blockIn s.params.blockBytes) = (c, c) := by
    simp only [blockResult, hdir, hc]
  have hlen : c.length = s.params.blockBytes := by rw [hc, length_backendEncrypt]
  exact exec_update_stored hp hm hn hdir hin hout hf hres hlen

/-- Settles O45: the next CV of a decrypting slot is the input block, read before the output is stored. -/
theorem decryptBlockStep : Obligations.DecryptBlockStep := by
  intro s n c hp hm hn hdir hcv hin hout hf hc
  have hres : blockResult s.params (s.slot n) (readBytes s.mem s.blockIn s.params.blockBytes) =
      (xorBytes (backendDecrypt s.params (s.slot n).ks c) (s.slot n).cv, c) := by
    simp only [blockResult, hdir, hc]
  have hlen : (xorBytes (backendDecrypt s.params (s.slot n).ks c) (s.slot n).cv).length = s.params.blockBytes := by
    simp [hcv]
  exact exec_update_stored hp hm hn hdir hin hout hf hres hlen

/-- What a failing command leaves of its slot: FAILED, KS zero, CV and DIR kept; no other slot changes (40_sequencer.md
R126). -/
theorem exec_update_fail {s u : State} {n : Nat} {c : CauseCode} (e : exec (.update n) s = .next (u.fail n c))
    (hn : n < s.slots.length) (hu : u.slots = s.slots) :
    s.completed (u.fail n c) .badState c ∧
      (u.fail n c).slot n = ⟨.failed, (s.slot n).dir, (s.slot n).cv, 0⟩ ∧ s.onlySlot (u.fail n c) n := by
  have hc := commandStep_of_exec e
  obtain ⟨hparams, -⟩ := hc.sameHostSide
  refine ⟨hc.completed, ?_, hc.onlySlot fun _ => id⟩
  rw [slot_fail_same _ (hu ▸ hn), slot_congr n hu hparams]
  rfl

/-- Settles O46: the three failures of a block step, in the order in which the step meets them. -/
theorem blockFailureKeepsTheChain : Obligations.BlockFailureKeepsTheChain := by
  intro s n hp hm hn
  have e := exec_update_block n hp
  rw [blockStep_eq] at e
  refine ⟨fun hin => ?_, fun hin hf => ?_, fun hin hf hout => ?_⟩
  · rw [if_pos hin] at e
    obtain ⟨hend, hslot, honly⟩ := exec_update_fail e hn rfl
    exact ⟨_, e, hend, rfl, hslot, honly⟩
  · have hcall : s.nextCallFails = true := hf
    rw [if_neg (by simp [hin]), if_pos hcall] at e
    obtain ⟨hend, hslot, honly⟩ := exec_update_fail e hn rfl
    exact ⟨_, e, hend, rfl, hslot, honly⟩
  · rw [if_neg (by simp [hin]), if_neg (by simp [State.nextCallFails, hf]), if_pos hout] at e
    obtain ⟨hend, hslot, honly⟩ := exec_update_fail e hn rfl
    exact ⟨_, e, hend, onlyBytes_scramble (s := s.countCall) hm _ _,
      fun a ha => readByte_scrambleBytes hm _ _ _ a (.inr ha), hslot, honly⟩

end Sys2Proof.Machine

/-! ## The blocks of UPDATE as a function of memory and slot -/

namespace Sys2Proof.Machine

/-- Memory and the slot after `k` block steps from `src` to `dst`, each on what the one before has left (42_update.md R160
to R162, R165). -/
def runBlocks (p : Params) : Nat → Nat → Nat → List Host.Cell → Slot → List Host.Cell × Slot
  | 0, _, _, m, t => (m, t)
  | k + 1, src, dst, m, t =>
    runBlocks p k (src + p.blockBytes) (dst + p.blockBytes)
      (writeBytes m dst (blockResult p t (readBytes m src p.blockBytes)).1)
      { t with cv := (blockResult p t (readBytes m src p.blockBytes)).2 }

/-- The state after UPDATE of slot `n` has run its `k` blocks from block L.I on and completed (42_update.md R160). -/
def State.updated (s : State) (n k : Nat) : State :=
  { s with
    mem := (runBlocks s.params k s.blockIn s.blockOut s.mem (s.slot n)).1
    slots := s.slots.set n (runBlocks s.params k s.blockIn s.blockOut s.mem (s.slot n)).2
    calls := s.calls + k }.complete .success .none

/-- What keeps the `k` blocks from block L.I on from failing (42_update.md R168). -/
structure State.BlocksClear (s : State) (k : Nat) : Prop where
  calls : ∀ j < k, oracleFails s.params.failures (s.calls + j) = false
  src : rangeOk s.params s.blockIn (k * s.params.blockBytes) = true
  dst : rangeOk s.params s.blockOut (k * s.params.blockBytes) = true

/-- With no block to run the command only completes. -/
theorem updated_zero {s : State} {n : Nat} (hn : n < s.slots.length) : s.updated n 0 = s.complete .success .none := by
  have hset : s.slots.set n (s.slot n) = s.slots := by simp [State.slot, hn]
  rw [State.updated, runBlocks, hset]
  rfl

/-- The next block's addresses follow on (42_update.md R165). -/
theorem blockIn_next (s : State) (n : Nat) :
    (s.blockStored n).countBlock.blockIn = s.blockIn + s.params.blockBytes := by
  simp only [State.blockIn, State.lSrcAddr, countBlock_latch, countBlock_params, blockStored_latch, blockStored_params]
  ring

theorem blockOut_next (s : State) (n : Nat) :
    (s.blockStored n).countBlock.blockOut = s.blockOut + s.params.blockBytes := by
  simp only [State.blockOut, State.lDstAddr, countBlock_latch, countBlock_params, blockStored_latch, blockStored_params]
  ring

/-- The first block done, the others follow from the state it leaves. -/
theorem updated_succ {s : State} {n : Nat} (hn : n < s.slots.length) (k : Nat) :
    (s.blockStored n).countBlock.updated n k = s.updated n (k + 1) := by
  have hcalls : s.calls + 1 + k = s.calls + (k + 1) := by omega
  rw [State.updated, State.updated, blockIn_next, blockOut_next, slot_countBlock, slot_blockStored hn]
  simp [State.blockStored, setCv, runBlocks, hcalls, State.complete]

theorem rangeOk_add {p : Params} {a m n : Nat} :
    rangeOk p a (m + n) = true ↔ rangeOk p a m = true ∧ rangeOk p (a + m) n = true := by
  simp only [rangeOk_iff]
  refine ⟨fun h => ⟨fun b h1 h2 => h b h1 (by omega), fun b h1 h2 => h b (by omega) (by omega)⟩,
    fun ⟨h, h'⟩ b h1 h2 => ?_⟩
  by_cases hb : b < a + m
  · exact h b h1 hb
  · exact h' b (by omega) (by omega)

/-- A clear run's first block does not fail, and the others are clear after it. -/
theorem State.BlocksClear.uncons {s : State} {k : Nat} (h : s.BlocksClear (k + 1)) (n : Nat) :
    blockStep n s = nextBlock (s.blockStored n) ∧ (s.blockStored n).countBlock.BlocksClear k := by
  obtain ⟨hcalls, hsrc, hdst⟩ := h
  rw [Nat.succ_mul, Nat.add_comm, rangeOk_add] at hsrc hdst
  refine ⟨blockStep_stored n hsrc.1 hdst.1 (hcalls 0 (by omega)), fun j hj => ?_, ?_, ?_⟩
  · have := hcalls (j + 1) (by omega)
    rwa [← Nat.add_assoc, Nat.add_right_comm] at this
  · rw [blockIn_next]
    simpa using hsrc.2
  · rw [blockOut_next]
    simpa using hdst.2

end Sys2Proof.Machine

/-! ## UPDATE without a failure, from acceptance to completion -/

namespace Sys2Proof.Machine

/-- In a clear run the machine's EXEC_BLOCK step stores its block, and the rest of the run is clear (42_update.md R160). -/
theorem step_block {s : State} {n k : Nat} (hin : s.inputs = []) (hb : s.status.busy = true)
    (hp : s.phase = .execBlock) (hi : decode s.latch.cmd = .ok (.update n)) (hc : s.BlocksClear (k + 1)) :
    step s = .next (nextBlock (s.blockStored n)) ∧ (s.blockStored n).countBlock.BlocksClear k := by
  obtain ⟨hblock, hrest⟩ := hc.uncons n
  refine ⟨?_, hrest⟩
  rw [step_of_engineTurn (.inl ⟨hin, rfl⟩), engineStep_decoded hb (by simp [hp]) hi, exec_update_block n hp, hblock]

/-- The EXEC_BLOCK steps of UPDATE, with `k + 1` blocks to go (42_update.md R160). -/
theorem stepN_blocks {s : State} {n k : Nat} (hin : s.inputs = []) (hb : s.status.busy = true)
    (hp : s.phase = .execBlock) (hi : decode s.latch.cmd = .ok (.update n)) (hn : n < s.slots.length)
    (hleft : s.latch.nblk = s.latch.i + (k + 1)) (hc : s.BlocksClear (k + 1)) :
    stepN (k + 1) s = .next (s.updated n (k + 1)) := by
  induction k generalizing s with
  | zero =>
    obtain ⟨hstep, -⟩ := step_block hin hb hp hi hc
    obtain ⟨-, e⟩ | ⟨hne, -⟩ := nextBlock_cases (s.blockStored n)
    · rw [← updated_succ hn, updated_zero (by simpa using hn), stepN, hstep, e]
      rfl
    · exact absurd hleft.symm hne
  | succ k ih =>
    obtain ⟨hstep, hrest⟩ := step_block hin hb hp hi hc
    obtain ⟨heq, -⟩ | ⟨-, e⟩ := nextBlock_cases (s.blockStored n)
    · rw [blockStored_latch] at heq
      omega
    · rw [← updated_succ hn, stepN, hstep, e]
      refine ih hin hb hp hi (by simpa using hn) ?_ hrest
      simp only [countBlock_latch, blockStored_latch]
      omega

/-- An UPDATE of `k` blocks that no failure meets: `1 + k` steps to its completion (42_update.md R160, 40_sequencer.md
R131). -/
theorem stepN_update {s : State} {n k : Nat} (h : s.Inv) (hin : s.inputs = []) (hp : s.phase = .check)
    (hi : decode s.latch.cmd = .ok (.update n)) (hr : s.UpdateReady n) (hf : s.NoFailure k)
    (hl : s.lLen = k * s.params.blockBytes) : stepN (1 + k) s = .next (s.updated n k) := by
  have hb : s.status.busy = true := h.phase.busyIff.2 (by simp [hp])
  have hn : n < s.slots.length := h.slotCount ▸ hr.inRange
  have hstep : step s = .next (startBlocks s) := by
    rw [step_of_engineTurn (.inl ⟨hin, rfl⟩), engineStep_decoded hb (by simp [hp]) hi, exec_update_start hp hr]
  rw [Nat.add_comm, stepN, hstep]
  cases k with
  | zero =>
    rw [updated_zero hn, startBlocks_empty (by simpa using hl)]
    rfl
  | succ k =>
    obtain ⟨hcalls, hsrc, hdst⟩ := hf
    obtain ⟨-, hzero⟩ := h.phase.check hp
    have hnblk : s.lLen / s.params.blockBytes = k + 1 := by
      rw [hl, Nat.mul_div_cancel _ (blockBytes_pos h.params)]
    have hstart : startBlocks s = s.setBlockCount.enter .execBlock := by
      rw [startBlocks, if_neg (by simp [hnblk])]
    have hc : (s.setBlockCount.enter .execBlock).BlocksClear (k + 1) := by
      refine ⟨hcalls, ?_, ?_⟩
      · rw [hl] at hsrc
        simpa [State.blockIn, State.lSrcAddr, hzero] using hsrc
      · rw [hl] at hdst
        simpa [State.blockOut, State.lDstAddr, hzero] using hdst
    rw [hstart]
    exact stepN_blocks hin hb rfl hi hn (by simp [hnblk, hzero]) hc

/-- Any number of steps of the machine keeps the invariant. -/
theorem inv_stepN {s t : State} {k : Nat} (h : s.Inv) (hs : stepN k s = .next t) : t.Inv := by
  induction k generalizing s with
  | zero =>
    cases hs
    exact h
  | succ k ih =>
    rw [stepN] at hs
    split at hs
    · rename_i u hu
      exact ih (everyStepKeepsTheInvariant _ _ h hu) hs
    · exact nomatch hs
    · exact nomatch hs

end Sys2Proof.Machine

/-! ## The memory and the chain that an UPDATE leaves -/

namespace Sys2Proof.Machine

/-- The output blocks of a slot for its input blocks, whatever its direction. -/
def chainOut (p : Params) : Slot → List Bytes → List Bytes
  | _, [] => []
  | t, b :: rest => (blockResult p t b).1 :: chainOut p { t with cv := (blockResult p t b).2 } rest

/-- The slot after its input blocks. -/
def chainSlot (p : Params) : Slot → List Bytes → Slot
  | t, [] => t
  | t, b :: rest => chainSlot p { t with cv := (blockResult p t b).2 } rest

/-- An encrypting slot's output is the CBC encryption of its input, and its CV the last ciphertext block (42_update.md
R161). -/
theorem chain_enc (p : Params) (st : SlotState) (ks : Nat) (cv : Bytes) (l : List Bytes) :
    chainOut p ⟨st, .enc, cv, ks⟩ l = cbcEncrypt (backendEncrypt p ks) cv l ∧
      chainSlot p ⟨st, .enc, cv, ks⟩ l = ⟨st, .enc, lastBlock cv (cbcEncrypt (backendEncrypt p ks) cv l), ks⟩ := by
  induction l generalizing cv with
  | nil => exact ⟨rfl, rfl⟩
  | cons b rest ih =>
    obtain ⟨hout, hslot⟩ := ih (backendEncrypt p ks (xorBytes b cv))
    exact ⟨congrArg (_ :: ·) hout, hslot⟩

/-- A decrypting slot's output is the CBC decryption of its input, and its CV the last ciphertext block (42_update.md
R162). -/
theorem chain_dec (p : Params) (st : SlotState) (ks : Nat) (cv : Bytes) (l : List Bytes) :
    chainOut p ⟨st, .dec, cv, ks⟩ l = cbcDecrypt (backendDecrypt p ks) cv l ∧
      chainSlot p ⟨st, .dec, cv, ks⟩ l = ⟨st, .dec, lastBlock cv l, ks⟩ := by
  induction l generalizing cv with
  | nil => exact ⟨rfl, rfl⟩
  | cons b rest ih =>
    obtain ⟨hout, hslot⟩ := ih b
    exact ⟨congrArg (_ :: ·) hout, hslot⟩

/-- Two memories that agree on the bytes of `k` blocks give the same blocks. -/
theorem readBlocks_congr {m m' : List Host.Cell} (a b k : Nat)
    (h : ∀ c, a ≤ c → c < a + k * b → readByte m c = readByte m' c) : readBlocks m a b k = readBlocks m' a b k := by
  induction k generalizing a with
  | zero => rfl
  | succ k ih =>
    rw [Nat.succ_mul] at h
    rw [readBlocks, readBlocks, readBytes_congr a b fun c h1 h2 => h c h1 (by omega),
      ih (a + b) fun c h1 h2 => h c (by omega) (by omega)]

theorem length_of_mem_readBlocks {m : List Host.Cell} {a b k : Nat} {x : Bytes} (hx : x ∈ readBlocks m a b k) :
    x.length = b := by
  induction k generalizing a with
  | zero => cases hx
  | succ k ih =>
    obtain rfl | hx := List.mem_cons.1 hx
    · exact length_readBytes ..
    · exact ih hx

/-- The blocks of a run change no byte outside its destination range (42_update.md R165). -/
theorem runBlocks_outside {p : Params} {m : List Host.Cell} {k src dst c : Nat} {t : Slot} (hm : Memory.wf m = true)
    (hc : c < dst ∨ dst + k * p.blockBytes ≤ c) : readByte (runBlocks p k src dst m t).1 c = readByte m c := by
  induction k generalizing src dst m t with
  | zero => rfl
  | succ k ih =>
    rw [Nat.succ_mul] at hc
    have hlen := blockResult_out_length_le p t (readBytes m src p.blockBytes)
    rw [runBlocks, ih (wf_writeBytes hm _ _) (by omega), readByte_writeBytes_outside hm _ _ _ (by omega)]

/-- Where no block's output lands on the input of a later one, the run is the chain of its source blocks as they stood at
the start, in place included (42_update.md R165, R170). -/
theorem runBlocks_chain {p : Params} {m : List Host.Cell} {k src dst : Nat} {t : Slot} (hm : Memory.wf m = true)
    (hcv : t.cv.length = p.blockBytes) (hd : dst ≤ src ∨ src + k * p.blockBytes ≤ dst) :
    readBlocks (runBlocks p k src dst m t).1 dst p.blockBytes k =
        chainOut p t (readBlocks m src p.blockBytes k) ∧
      (runBlocks p k src dst m t).2 = chainSlot p t (readBlocks m src p.blockBytes k) := by
  induction k generalizing src dst m t with
  | zero => exact ⟨rfl, rfl⟩
  | succ k ih =>
    rw [Nat.succ_mul] at hd
    obtain ⟨hout, hnext⟩ := blockResult_length hcv (length_readBytes m src p.blockBytes)
    have hm' := wf_writeBytes hm dst (blockResult p t (readBytes m src p.blockBytes)).1
    have hsource := readBlocks_congr (src + p.blockBytes) p.blockBytes k fun c h1 h2 =>
      readByte_writeBytes_outside hm dst (blockResult p t (readBytes m src p.blockBytes)).1 c (by omega)
    have hfirst : readBytes (runBlocks p (k + 1) src dst m t).1 dst p.blockBytes =
        (blockResult p t (readBytes m src p.blockBytes)).1 := by
      rw [runBlocks, readBytes_congr dst _ fun c _ h2 => runBlocks_outside hm' (.inl h2),
        readBytes_writeBytes_of_length hm hout]
    obtain ⟨hrest, hslot⟩ := ih (src := src + p.blockBytes) (dst := dst + p.blockBytes)
      (t := { t with cv := (blockResult p t (readBytes m src p.blockBytes)).2 }) hm' hnext (by omega)
    rw [hsource] at hrest hslot
    refine ⟨?_, hslot⟩
    rw [readBlocks, hfirst, readBlocks, chainOut, ← hrest, runBlocks]

/-- A run is one of its first blocks and then one of the others, for any overlap (42_update.md R169). -/
theorem runBlocks_add (p : Params) (k l src dst : Nat) (m : List Host.Cell) (t : Slot) :
    runBlocks p (k + l) src dst m t =
      runBlocks p l (src + k * p.blockBytes) (dst + k * p.blockBytes) (runBlocks p k src dst m t).1
        (runBlocks p k src dst m t).2 := by
  induction k generalizing src dst m t with
  | zero => simp [runBlocks]
  | succ k ih =>
    have haddr (a : Nat) : a + (k + 1) * p.blockBytes = a + p.blockBytes + k * p.blockBytes := by ring
    rw [Nat.add_right_comm, runBlocks, runBlocks, ih, haddr, haddr]

end Sys2Proof.Machine

/-! ## Whole UPDATEs -/

namespace Sys2Proof.Machine

/-- The slot that an UPDATE leaves. -/
theorem slot_updated {s : State} {n : Nat} (hn : n < s.slots.length) (k : Nat) :
    (s.updated n k).slot n = (runBlocks s.params k s.blockIn s.blockOut s.mem (s.slot n)).2 :=
  slot_setSlot_same s _ hn

/-- An UPDATE without a failure whose output no later block reads leaves the chain of its source blocks, in memory and in
the slot, and nothing else (42_update.md R160, R165, R166, R170). -/
theorem updated_chain {s : State} {n k : Nat} (h : s.Inv) (hp : s.phase = .check) (hr : s.UpdateReady n)
    (hl : s.lLen = k * s.params.blockBytes) (hd : s.lDstAddr ≤ s.lSrcAddr ∨ s.lSrcAddr + s.lLen ≤ s.lDstAddr) :
    s.completed (s.updated n k) .success .none ∧
      readBlocks (s.updated n k).mem s.lDstAddr s.params.blockBytes k =
        chainOut s.params (s.slot n) (readBlocks s.mem s.lSrcAddr s.params.blockBytes k) ∧
      (s.updated n k).slot n = chainSlot s.params (s.slot n) (readBlocks s.mem s.lSrcAddr s.params.blockBytes k) ∧
      s.onlySlot (s.updated n k) n ∧ s.onlyBytes (s.updated n k) s.lDstAddr s.lLen := by
  obtain ⟨-, hi⟩ := h.phase.check hp
  have hsrc : s.blockIn = s.lSrcAddr := by simp [State.blockIn, hi]
  have hdst : s.blockOut = s.lDstAddr := by simp [State.blockOut, hi]
  rw [hl] at hd ⊢
  obtain ⟨hout, hslot⟩ := runBlocks_chain h.memForm (slot_ok h.slots n).cvLength hd
  refine ⟨completed_complete s _ _, ?_, ?_, ⟨List.length_set .., fun m hm => slot_setSlot_other s _ hm.symm⟩,
    fun b hb => ?_⟩
  · rw [← hout, ← hsrc, ← hdst]
    rfl
  · rw [slot_updated (h.slotCount ▸ hr.inRange), hsrc, hdst, hslot]
  · rw [← hdst] at hb
    exact runBlocks_outside h.memForm hb

/-- Settles O55: the chain of an encrypting slot is CBC encryption. -/
theorem updateEncryptsTheChain : Obligations.UpdateEncryptsTheChain := by
  rintro s k n E h hin hp hi hr hdir hf - hl hd rfl
  obtain ⟨hend, hmem, hslot, hframe⟩ := updated_chain h hp hr hl hd
  have ht : s.slot n = ⟨.ready, .enc, (s.slot n).cv, (s.slot n).ks⟩ := by rw [← hr.ready, ← hdir]
  obtain ⟨hout, hlast⟩ := chain_enc s.params .ready (s.slot n).ks (s.slot n).cv
    (readBlocks s.mem s.lSrcAddr s.params.blockBytes k)
  rw [← ht] at hout hlast
  exact ⟨_, stepN_update h hin hp hi hr hf hl, hend, hmem.trans hout, hslot.trans hlast, hframe⟩

/-- Settles O56: the chain of a decrypting slot is CBC decryption. -/
theorem updateDecryptsTheChain : Obligations.UpdateDecryptsTheChain := by
  rintro s k n D h hin hp hi hr hdir hf - hl hd rfl
  obtain ⟨hend, hmem, hslot, hframe⟩ := updated_chain h hp hr hl hd
  have ht : s.slot n = ⟨.ready, .dec, (s.slot n).cv, (s.slot n).ks⟩ := by rw [← hr.ready, ← hdir]
  obtain ⟨hout, hlast⟩ := chain_dec s.params .ready (s.slot n).ks (s.slot n).cv
    (readBlocks s.mem s.lSrcAddr s.params.blockBytes k)
  rw [← ht] at hout hlast
  exact ⟨_, stepN_update h hin hp hi hr hf hl, hend, hmem.trans hout, hslot.trans hlast, hframe⟩

end Sys2Proof.Machine

/-! ## Two UPDATEs, and decryption after encryption -/

namespace Sys2Proof.Machine

/-- An UPDATE just issued is in its CHECK step, with the invariant (40_sequencer.md R120). -/
theorem inv_issueUpdate {s : State} (h : s.Inv) (n : Nat) (src dst len : Word) : (s.issueUpdate n src dst len).Inv :=
  inv_accept (h.hostFields s.event s.irqEn _ s.cvSel [] s.resp s.draws) _

/-- The word of an UPDATE of a slot of the file decodes to it. -/
theorem decode_issueUpdate {s : State} {n : Nat} (h : s.Inv) (hn : n < s.params.numSlots) (src dst len : Word) :
    decode (s.issueUpdate n src dst len).latch.cmd = .ok (.update n) :=
  decodeInvertsEncode (.update n) (decide_eq_true (hn.trans_le (numSlots_le h.params)))

/-- The checks pass for an UPDATE of whole blocks on a READY slot within the address space (42_update.md R163, R164). -/
theorem issueUpdate_ready {s : State} {n k : Nat} {src dst len : Word} (hn : n < s.params.numSlots)
    (hr : (s.slot n).state = .ready) (hl : len.toNat = k * s.params.blockBytes)
    (hs : src.toNat + len.toNat ≤ 2 ^ 32) (hd : dst.toNat + len.toNat ≤ 2 ^ 32) :
    (s.issueUpdate n src dst len).UpdateReady n :=
  ⟨hn, hr, (congrArg (· % s.params.blockBytes) hl).trans (Nat.mul_mod_left ..), hs, hd⟩

/-- An UPDATE issued on a READY slot that no failure meets, run to its completion. -/
theorem stepN_issueUpdate {s : State} {n k : Nat} {src dst len : Word} (h : s.Inv) (hn : n < s.params.numSlots)
    (hr : (s.slot n).state = .ready) (hl : len.toNat = k * s.params.blockBytes)
    (hs : src.toNat + len.toNat ≤ 2 ^ 32) (hd : dst.toNat + len.toNat ≤ 2 ^ 32)
    (hf : (s.issueUpdate n src dst len).NoFailure k) :
    stepN (1 + k) (s.issueUpdate n src dst len) = .next ((s.issueUpdate n src dst len).updated n k) :=
  stepN_update (inv_issueUpdate h n src dst len) rfl rfl (decode_issueUpdate h hn src dst len)
    (issueUpdate_ready hn hr hl hs hd) hf hl

/-- The memory and the slots that an UPDATE leaves, from its arguments. -/
theorem updated_issueUpdate (s : State) (n k : Nat) (src dst len : Word) :
    ((s.issueUpdate n src dst len).updated n k).mem =
        (runBlocks s.params k src.toNat dst.toNat s.mem (s.slot n)).1 ∧
      ((s.issueUpdate n src dst len).updated n k).slots =
        s.slots.set n (runBlocks s.params k src.toNat dst.toNat s.mem (s.slot n)).2 := by
  have hsrc : (s.issueUpdate n src dst len).blockIn = src.toNat := by
    simp [State.blockIn, State.lSrcAddr, State.issueUpdate]
  have hdst : (s.issueUpdate n src dst len).blockOut = dst.toNat := by
    simp [State.blockOut, State.lDstAddr, State.issueUpdate]
  rw [← hsrc, ← hdst]
  exact ⟨rfl, rfl⟩

/-- The slot that an UPDATE leaves, from its arguments. -/
theorem slot_issueUpdate {s : State} {n : Nat} (hn : n < s.slots.length) (k : Nat) (src dst len : Word) :
    ((s.issueUpdate n src dst len).updated n k).slot n =
      (runBlocks s.params k src.toNat dst.toNat s.mem (s.slot n)).2 := by
  obtain ⟨-, hslots⟩ := updated_issueUpdate s n k src dst len
  exact (slot_congr (s := s.setSlot n _) n hslots rfl).trans (slot_setSlot_same s _ hn)

/-- The blocks of an UPDATE keep the lifecycle state of the slot. -/
theorem runBlocks_state (p : Params) (k src dst : Nat) (m : List Host.Cell) (t : Slot) :
    (runBlocks p k src dst m t).2.state = t.state := by
  induction k generalizing src dst m t with
  | zero => rfl
  | succ k ih => exact ih ..

/-- The second of two adjacent ranges is empty, or it begins where the first one ends, without a wrap. -/
theorem toNat_add_cases {a len1 len2 : Word} (h : a.toNat + (len1.toNat + len2.toNat) ≤ 2 ^ 32) :
    len2.toNat = 0 ∨ (a + len1).toNat = a.toNat + len1.toNat := by
  rw [BitVec.toNat_add]
  omega

/-- The second of two adjacent ranges lies in the address space. -/
theorem toNat_add_range {a len1 len2 : Word} (h : a.toNat + (len1.toNat + len2.toNat) ≤ 2 ^ 32) :
    (a + len1).toNat + len2.toNat ≤ 2 ^ 32 := by
  have hlt := (a + len1).isLt
  obtain h0 | h1 := toNat_add_cases h <;> omega

/-- A range that the bus admits, cut in two. -/
theorem rangeOk_split {p : Params} {a len1 len2 : Word} (hr : rangeOk p a.toNat (len1.toNat + len2.toNat) = true)
    (h : a.toNat + (len1.toNat + len2.toNat) ≤ 2 ^ 32) :
    rangeOk p a.toNat len1.toNat = true ∧ rangeOk p (a + len1).toNat len2.toNat = true := by
  obtain ⟨hr1, hr2⟩ := rangeOk_add.1 hr
  obtain h0 | h1 := toNat_add_cases h
  · exact ⟨hr1, by rw [h0]; rfl⟩
  · exact ⟨hr1, by rw [h1]; exact hr2⟩

/-- The blocks of two adjacent UPDATEs are those of one (42_update.md R169). -/
theorem runBlocks_split {p : Params} {k1 k2 : Nat} {src dst len1 len2 : Word} (hp : p.wf = true)
    (h1 : len1.toNat = k1 * p.blockBytes) (h2 : len2.toNat = k2 * p.blockBytes)
    (hs : src.toNat + (len1.toNat + len2.toNat) ≤ 2 ^ 32) (hd : dst.toNat + (len1.toNat + len2.toNat) ≤ 2 ^ 32)
    (m : List Host.Cell) (t : Slot) :
    runBlocks p k2 (src + len1).toNat (dst + len1).toNat (runBlocks p k1 src.toNat dst.toNat m t).1
      (runBlocks p k1 src.toNat dst.toNat m t).2 = runBlocks p (k1 + k2) src.toNat dst.toNat m t := by
  rw [runBlocks_add]
  obtain h0 | hsrc := toNat_add_cases hs
  · obtain rfl : k2 = 0 := by simpa [h2, (blockBytes_pos hp).ne'] using h0
    rfl
  obtain h0 | hdst := toNat_add_cases hd
  · obtain rfl : k2 = 0 := by simpa [h2, (blockBytes_pos hp).ne'] using h0
    rfl
  rw [hsrc, hdst, h1]

/-- Settles O57: three runs without a failure, and the blocks of the first two are those of the third. -/
theorem splitUpdatesEqualOne : Obligations.SplitUpdatesEqualOne := by
  intro s t1 t2 t n k1 k2 src dst len1 len2 len h _ hn hr hf hl1 hl2 hl hs hd hrun1 hrun2 hrun
  obtain ⟨hcalls, hsrc, hdst⟩ := hf
  have hlen : len.toNat = (k1 + k2) * s.params.blockBytes := by rw [hl, hl1, hl2, Nat.add_mul]
  have e := stepN_issueUpdate h hn hr hlen hs hd ⟨hcalls, hsrc, hdst⟩
  change rangeOk s.params src.toNat len.toNat = true at hsrc
  change rangeOk s.params dst.toNat len.toNat = true at hdst
  rw [hl] at hs hd hsrc hdst
  obtain ⟨hsrc1, hsrc2⟩ := rangeOk_split hsrc hs
  obtain ⟨hdst1, hdst2⟩ := rangeOk_split hdst hd
  have e1 := stepN_issueUpdate h hn hr hl1 (by omega) (by omega) ⟨fun j hj => hcalls j (by omega), hsrc1, hdst1⟩
  have hinv1 := inv_stepN (inv_issueUpdate h ..) hrun1
  cases e1.symm.trans hrun1
  have hslot1 := slot_issueUpdate (h.slotCount ▸ hn) k1 src dst len1
  have hr1 := (congrArg Slot.state hslot1).trans ((runBlocks_state ..).trans hr)
  have e2 := stepN_issueUpdate hinv1 hn hr1 hl2 (toNat_add_range hs) (toNat_add_range hd)
    ⟨fun j hj => (congrArg (oracleFails s.params.failures) (Nat.add_assoc s.calls k1 j)).trans
      (hcalls (k1 + j) (by omega)), hsrc2, hdst2⟩
  cases e2.symm.trans hrun2
  rw [Nat.add_assoc] at hrun
  cases e.symm.trans hrun
  have hblocks := runBlocks_split h.params hl1 hl2 hs hd s.mem (s.slot n)
  obtain ⟨hmem1, hslots1⟩ := updated_issueUpdate s n k1 src dst len1
  obtain ⟨hmem2, hslots2⟩ := updated_issueUpdate ((s.issueUpdate n src dst len1).updated n k1) n k2 (src + len1)
    (dst + len1) len2
  obtain ⟨hmem, hslots⟩ := updated_issueUpdate s n (k1 + k2) src dst len
  rw [hslot1, hmem1] at hmem2 hslots2
  refine ⟨rfl, rfl, rfl, ?_, ?_, rfl⟩
  · rw [hmem2, hmem, ← hblocks]
    rfl
  · rw [hslots2, hslots, hslots1, List.set_set, ← hblocks]
    rfl

/-- CBC decryption undoes CBC encryption where `D` undoes `E` on blocks (42_update.md R174). -/
theorem cbcDecrypt_cbcEncrypt {E D : Bytes → Bytes} {b : Nat} {cv : Bytes} {l : List Bytes}
    (hE : ∀ x, (E x).length = b) (hDE : ∀ x, x.length = b → D (E x) = x) (hcv : cv.length = b)
    (hl : ∀ x ∈ l, x.length = b) : cbcDecrypt D cv (cbcEncrypt E cv l) = l := by
  induction l generalizing cv with
  | nil => rfl
  | cons x rest ih =>
    obtain ⟨hx, hrest⟩ := List.forall_mem_cons.1 hl
    rw [cbcEncrypt, cbcDecrypt, hDE _ (by simp [hx, hcv]), xorBytes_cancel (hx.trans hcv.symm), ih (hE _) hrest]

/-- BACKEND_INVERSE, for the blocks of a chain (00_scope.md R9, 42_update.md R174). -/
theorem BackendInverse.cbc {p : Params} {key cv : Bytes} {l : List Bytes} (h : BackendInverse p)
    (hk : key.length = p.keyBytes) (hke : keyRejected p .enc key = false) (hkd : keyRejected p .dec key = false)
    (hcv : cv.length = p.blockBytes) (hl : ∀ x ∈ l, x.length = p.blockBytes) :
    cbcDecrypt (backendDecrypt p (backendExpand p .dec key)) cv
      (cbcEncrypt (backendEncrypt p (backendExpand p .enc key)) cv l) = l :=
  cbcDecrypt_cbcEncrypt (length_backendEncrypt p _) (fun x hx => h key x hk hx hke hkd) hcv hl

theorem State.completed.params {s t : State} {r : ResultCode} {c : CauseCode} (h : s.completed t r c) :
    t.params = s.params := by
  obtain ⟨-, -, -, -, -, -, -, -, hp, -⟩ := h
  exact hp

/-- Settles O58: the second UPDATE decrypts what the first one has encrypted, from the same CV. -/
theorem decryptionRestoresThePlaintext : Obligations.DecryptionRestoresThePlaintext := by
  intro s t u n m k key src dst back len h _ hinv hkey hke hkd hn hm hnm hrn hdn hkn hrm hdm hkm hcv hk hl hsd hdb hs hd
    hb hfn hfm hrun hrun'
  obtain ⟨t', et, hend, hmem, hslot, ⟨-, hother⟩, -⟩ := updateEncryptsTheChain _ k n _
    (inv_issueUpdate h n src dst len) rfl rfl (decode_issueUpdate h hn ..) (issueUpdate_ready hn hrn hl hs hd) hdn hfn hk
    hl hsd.symm rfl
  cases et.symm.trans hrun
  have ht := inv_stepN (inv_issueUpdate h ..) hrun
  have hp : t.params = s.params := hend.params
  have hmt : t.slot m = s.slot m := hother m hnm.symm
  rw [← hmt] at hrm hdm hkm hcv
  rw [← hp] at hm
  obtain ⟨u', eu, ⟨hbusy, hresult, -⟩, hmem', hslot', ⟨-, hother'⟩, -⟩ := updateDecryptsTheChain _ k m _
    (inv_issueUpdate ht m dst back len) rfl rfl (decode_issueUpdate ht hm ..)
    (issueUpdate_ready hm hrm (hp ▸ hl) hd hb) hdm hfm hk (hp ▸ hl) hdb.symm rfl
  cases eu.symm.trans hrun'
  have hcipher : readBlocks t.mem dst.toNat s.params.blockBytes k =
      cbcEncrypt (backendEncrypt s.params (s.slot n).ks) (s.slot n).cv
        (readBlocks s.mem src.toNat s.params.blockBytes k) := hmem
  have hplain : readBlocks u.mem back.toNat t.params.blockBytes k =
      cbcDecrypt (backendDecrypt t.params (t.slot m).ks) (t.slot m).cv
        (readBlocks t.mem dst.toNat t.params.blockBytes k) := hmem'
  have hcvm : (u.slot m).cv = lastBlock (t.slot m).cv (readBlocks t.mem dst.toNat t.params.blockBytes k) :=
    congrArg Slot.cv hslot'
  have hcvn : (u.slot n).cv = lastBlock (s.slot n).cv (cbcEncrypt (backendEncrypt s.params (s.slot n).ks) (s.slot n).cv
      (readBlocks s.mem src.toNat s.params.blockBytes k)) :=
    congrArg Slot.cv ((hother' n hnm).trans hslot)
  refine ⟨hbusy, hresult, ?_, ?_⟩
  · rw [hp, hcv, hkm, hcipher, hkn] at hplain
    exact hplain.trans (hinv.cbc hkey hke hkd (slot_ok h.slots n).cvLength fun x => length_of_mem_readBlocks)
  · rw [hcvm, hcvn, hp, hcv, hcipher]

end Sys2Proof.Machine

/-! ## FINAL and FREE -/

namespace Sys2Proof.Machine

/-- FINAL with both checks passed has its effect (43_final_free.md R190). -/
theorem exec_final_ready {s : State} {n : Nat} (hn : n < s.params.numSlots) (hr : (s.slot n).state = .ready) :
    exec (.final n) s = .next ((s.setSlot n (s.slot n).finalizedKeep).complete .success .none) := by
  obtain ⟨hge, -⟩ | ⟨-, hne, -⟩ | ⟨-, -, e⟩ := execFinal_cases n s
  · exact absurd hn hge.not_gt
  · exact absurd hr hne
  · exact e

/-- FREE with both checks passed has its effect (43_final_free.md R195). -/
theorem exec_free_allocated {s : State} {n : Nat} (hn : n < s.params.numSlots) (hr : (s.slot n).state ≠ .free) :
    exec (.free n) s = .next ((s.setSlot n (Slot.erased s.params.blockBytes)).complete .success .none) := by
  obtain ⟨hge, -⟩ | ⟨-, hfree, -⟩ | ⟨-, -, e⟩ := execFree_cases n s
  · exact absurd hn hge.not_gt
  · exact absurd hfree hr
  · exact e

/-- Settles O47: the one slot written is `Slot.finalizedKeep` of itself, and the completion writes no slot. -/
theorem finalReleasesTheKeySchedule : Obligations.FinalReleasesTheKeySchedule := by
  intro s n hn hlen hr
  have hc : CommandStep s (.final n) _ := .finalized hr
  exact ⟨_, exec_final_ready hn hr, slot_complete_setSlot _ _ _ hlen, hc.onlySlot fun _ => id, hc.completed,
    rfl, rfl, rfl, rfl⟩

/-- Settles O48: the one slot written is the erased one, and the completion zeroes KEYBUF and IVBUF. -/
theorem freeErasesTheSlot : Obligations.FreeErasesTheSlot := by
  intro s n hn hlen hr
  have hc : CommandStep s (.free n) _ := .freed hr
  exact ⟨_, exec_free_allocated hn hr, slot_complete_setSlot _ _ _ hlen, rfl, rfl, hc.onlySlot fun _ => id,
    hc.completed, rfl, rfl, rfl, rfl⟩

end Sys2Proof.Machine

/-! ## COPY -/

namespace Sys2Proof.Machine

/-- COPY with every check passed has its effect (44_copy_state.md R210, R211). -/
theorem exec_copy_permitted {s : State} {t r : Nat} (ht : t < s.params.numSlots) (hr : r < s.params.numSlots)
    (hsrc : (s.slot r).state = .ready)
    (hdst : (s.slot t).state = .allocated ∨ (s.slot t).state = .ready ∨ (s.slot t).state = .finalized) :
    exec (.copy t r) s = .next (copyEffect t r s) := by
  rw [exec, execCopy, runChecks_pass _ (copyChecks_pass.2 ⟨ht, hr, hsrc, hdst⟩)]

/-- Settles O49: a self-copy only completes; any other COPY writes the source's slot, READY as it is, to the
destination. -/
theorem copyClonesTheSlot : Obligations.CopyClonesTheSlot := by
  intro s t r ht hr hlen hsrc hdst
  have e := exec_copy_permitted ht hr hsrc hdst
  have hready : s.slot r = ⟨.ready, (s.slot r).dir, (s.slot r).cv, (s.slot r).ks⟩ := by rw [← hsrc]
  by_cases htr : t = r
  · rw [copyEffect, if_pos htr] at e
    have hc := commandStep_of_exec e
    exact ⟨_, e, htr ▸ hready, rfl, hc.onlySlot fun _ => id, fun _ => rfl, hc.completed, rfl, rfl, rfl, rfl⟩
  · rw [copyEffect, if_neg htr] at e
    have hc := commandStep_of_exec e
    exact ⟨_, e, slot_complete_setSlot _ _ _ hlen, slot_setSlot_other s _ htr, hc.onlySlot fun _ => id,
      fun h => absurd h htr, hc.completed, rfl, rfl, rfl, rfl⟩

end Sys2Proof.Machine

/-! ## The machine with one slot alone -/

namespace Sys2Proof.Machine

/-- The machine as an UPDATE of slot `n` sees it: slot `n` is the only slot, by the index 0, and the word in flight, if
there is one, is UPDATE of slot 0. What one slot does and what its clone does are compared here, where neither has an
index of its own (44_copy_state.md R215). -/
def State.lone (s : State) (n : Nat) : State :=
  { s with
    slots := [s.slot n]
    latch := { s.latch with cmd := if s.phase = .idle then 0 else encode (.update 0) } }

section Lone

variable {s : State} {n : Nat}

/-- The word of the one-slot machine is UPDATE of its slot. -/
theorem decode_lone (hp : s.phase ≠ .idle) : decode (s.lone n).latch.cmd = .ok (.update 0) := by
  rw [State.lone, if_neg hp]
  exact decodeInvertsEncode (.update 0) rfl

theorem lone_complete (s : State) (n : Nat) (r : ResultCode) (c : CauseCode) :
    (s.complete r c).lone n = (s.lone n).complete r c := rfl

theorem lone_setSlot (hn : n < s.slots.length) (v : Slot) : (s.setSlot n v).lone n = (s.lone n).setSlot 0 v := by
  rw [State.lone, slot_setSlot_same s v hn]
  rfl

theorem lone_fail (hn : n < s.slots.length) (c : CauseCode) : (s.fail n c).lone n = (s.lone n).fail 0 c :=
  (lone_complete ..).trans (congrArg (State.complete · .badState c) (lone_setSlot hn _))

/-- A block's effect needs the slot, the latched arguments and memory alone (42_update.md R161, R162). -/
theorem lone_blockStored (hn : n < s.slots.length) : (s.blockStored n).lone n = (s.lone n).blockStored 0 :=
  lone_setSlot (s := s.countCall.store _ _) hn _

theorem lone_nextBlock (s : State) (n : Nat) : (nextBlock s).lone n = nextBlock (s.lone n) :=
  apply_ite (State.lone · n) ..

theorem lone_blockStep (hn : n < s.slots.length) : (blockStep n s).lone n = blockStep 0 (s.lone n) := by
  simp only [blockStep_eq, apply_ite (State.lone · n), lone_fail hn, lone_fail (s := s.countCall) hn,
    lone_fail (s := s.countCall.scramble _ _) hn, lone_nextBlock, lone_blockStored hn]
  rfl

theorem lone_startBlocks (hp : s.phase ≠ .idle) : (startBlocks s).lone n = startBlocks (s.lone n) := by
  have henter : (s.setBlockCount.enter .execBlock).lone n = (s.lone n).setBlockCount.enter .execBlock := by
    simp only [State.lone, if_neg hp]
    rfl
  rw [startBlocks, apply_ite (State.lone · n), henter]
  rfl

/-- The checks of UPDATE see no more than the slot and the latched arguments (40_sequencer.md R123). -/
theorem updateChecks_lone (hn : n < s.params.numSlots) : updateChecks 0 (s.lone n) = updateChecks n s := by
  have hout : s.params.numSlots ≤ 0 ↔ s.params.numSlots ≤ n := by omega
  have hrange : slotRangeRow (s.lone n) 0 = slotRangeRow s n :=
    congrArg (CheckRow.mk · .badParameters .slotRange) (decide_eq_decide.2 hout)
  rw [updateChecks, updateChecks, hrange]
  rfl

theorem lone_runChecks {effect : State → State} (rows : List CheckRow)
    (he : (effect s).lone n = effect (s.lone n)) :
    (runChecks rows effect s).lone n = runChecks rows effect (s.lone n) := by
  unfold runChecks
  split
  · rfl
  · exact he

/-- An engine step of UPDATE is the same step in the one-slot machine. -/
theorem exec_update_lone {u : State} (hn : n < s.params.numSlots) (hlen : n < s.slots.length) (hp : s.phase ≠ .idle)
    (h : exec (.update n) s = .next u) : exec (.update 0) (s.lone n) = .next (u.lone n) := by
  by_cases hb : s.phase = .execBlock
  · cases (execUpdate_block n hb).symm.trans h
    rw [lone_blockStep hlen]
    exact execUpdate_block 0 hb
  · cases (execUpdate_check n hb).symm.trans h
    rw [lone_runChecks _ (lone_startBlocks hp), ← updateChecks_lone hn]
    exact execUpdate_check 0 hb

end Lone

/-- Nothing is pending, and the command in flight, if there is one, is UPDATE of slot `n` of the file. -/
structure State.OnlyUpdate (s : State) (n : Nat) : Prop where
  pending : s.inputs = []
  inFlight : s.phase ≠ .idle → decode s.latch.cmd = .ok (.update n)
  inRange : n < s.params.numSlots
  inFile : n < s.slots.length

/-- A step of UPDATE ends it or leaves it in flight. -/
theorem State.OnlyUpdate.of_exec {s u : State} {n : Nat} (h : s.OnlyUpdate n)
    (hi : decode s.latch.cmd = .ok (.update n)) (hs : exec (.update n) s = .next u) : u.OnlyUpdate n := by
  have hc := commandStep_of_exec hs
  obtain ⟨hparams, -, -, -, -, hin, -⟩ := hc.sameHostSide
  refine ⟨hin.trans h.pending, fun hp => ?_, hparams ▸ h.inRange, hc.slots_length ▸ h.inFile⟩
  obtain ⟨-, -, -, -, -, hidle, -⟩ | ⟨-, -, -, -, -, hcmd, -⟩ := hc.ends_or_works
  · exact absurd hidle hp
  · rw [hcmd, hi]

/-- While only an UPDATE is at work, the one-slot machine steps as the whole one does. -/
theorem State.OnlyUpdate.step_lone {s u : State} {n : Nat} (h : s.OnlyUpdate n) (hs : step s = .next u) :
    u.OnlyUpdate n ∧ step (s.lone n) = .next (u.lone n) := by
  rw [step_of_engineTurn (.inl ⟨h.pending, rfl⟩)] at hs
  rw [step_of_engineTurn (s := s.lone n) (.inl ⟨h.pending, rfl⟩)]
  obtain ⟨hstop, e⟩ | ⟨-, hp, ⟨_, he⟩, -⟩ | ⟨hb, hp, i, hi, e⟩ := engineStep_cases s
  · cases e.symm.trans hs
    exact ⟨h, if_pos hstop⟩
  · exact nomatch he.symm.trans (h.inFlight hp)
  · cases hi.symm.trans (h.inFlight hp)
    have hexec := e.symm.trans hs
    exact ⟨h.of_exec hi hexec, (engineStep_decoded (s := s.lone n) hb hp (decode_lone hp)).trans
      (exec_update_lone h.inRange h.inFile hp hexec)⟩

/-- Any number of steps while only an UPDATE is at work are as many of the one-slot machine. -/
theorem State.OnlyUpdate.stepN_lone {s u : State} {n k : Nat} (h : s.OnlyUpdate n) (hs : stepN k s = .next u) :
    stepN k (s.lone n) = .next (u.lone n) := by
  induction k generalizing s with
  | zero =>
    cases hs
    rfl
  | succ k ih =>
    rw [stepN] at hs ⊢
    split at hs
    · rename_i s' hstep
      obtain ⟨h', e⟩ := h.step_lone hstep
      rw [e]
      exact ih h' hs
    · exact nomatch hs
    · exact nomatch hs

/-- An UPDATE issued on a slot of the file is the only thing at work. -/
theorem onlyUpdate_issueUpdate {s : State} {n : Nat} (h : s.Inv) (hn : n < s.params.numSlots) (src dst len : Word) :
    (s.issueUpdate n src dst len).OnlyUpdate n :=
  ⟨rfl, fun _ => decode_issueUpdate h hn src dst len, hn, h.slotCount ▸ hn⟩

/-- The same UPDATE issued on either of two equal slots leaves the same one-slot machine. -/
theorem lone_issueUpdate {s : State} {t r : Nat} (h : s.slot t = s.slot r) (src dst len : Word) :
    (s.issueUpdate t src dst len).lone t = (s.issueUpdate r src dst len).lone r := by
  have hissue : ∀ n, (s.issueUpdate n src dst len).slot n = s.slot n := fun _ => rfl
  simp only [State.lone, hissue, h]
  simp only [State.issueUpdate, State.accept, reduceCtorEq, if_false]

/-- Settles O59: both runs are the run of one and the same one-slot machine. -/
theorem cloneContinuesLikeTheOriginal : Obligations.CloneContinuesLikeTheOriginal := by
  intro s u v t r k src dst len h _ ht hr hslot _ hu hv
  have eu := (onlyUpdate_issueUpdate h ht src dst len).stepN_lone hu
  have ev := (onlyUpdate_issueUpdate h hr src dst len).stepN_lone hv
  rw [lone_issueUpdate hslot] at eu
  have huv : u.lone t = v.lone r := Host.Outcome.next.inj (eu.symm.trans ev)
  exact ⟨congrArg (·.mem) huv, congrArg (State.slot · 0) huv, congrArg (·.status) huv⟩

end Sys2Proof.Machine

/-! ## Reports, and the interrupt line -/

namespace Sys2Proof.Machine

/-- Settles O12: the formula of R241 as a proposition. -/
theorem irqFollowsEventAndEnable : Obligations.IrqFollowsEventAndEnable :=
  ⟨rfl, fun s => by simp [State.irq]⟩

/-- The checks a command runs in its CHECK step (40_sequencer.md R123). -/
def State.checkRows (s : State) : Instr → List CheckRow
  | .alloc => allocChecks s
  | .init n _ => initChecks n s
  | .update n => updateChecks n s
  | .final n => finalChecks n s
  | .free n => freeChecks n s
  | .copy t r => copyChecks t r s

/-- What an engine step of a command can report: nothing yet, SUCCESS, the row of a failed check, or a failure in the
execution of INIT or UPDATE (60_exceptions.md R231, R232). -/
inductive StepReport (s : State) : Instr → State → Prop where
  | goesOn {i t} (hs : t.status = s.status) : StepReport s i t
  | succeeded {i t} (hr : t.status.result = .success) (hc : t.status.cause = .none) : StepReport s i t
  | checkFailed {i row} (hm : row ∈ s.checkRows i) : StepReport s i (s.complete row.result row.cause)
  | initFailed {n d c} {u : State} (hc : c = .keyExpand ∨ c = .busError) (hu : u.slots.length = s.slots.length) :
      StepReport s (.init n d) (u.fail n c)
  | updateFailed {n c} {u : State} (hc : c = .blockXform ∨ c = .busError) (hu : u.slots.length = s.slots.length) :
      StepReport s (.update n) (u.fail n c)

/-- A CHECK step reports a failed check, or what the command's effect reports. -/
theorem stepReport_runChecks {s : State} {i : Instr} {effect : State → State} (he : StepReport s i (effect s)) :
    StepReport s i (runChecks (s.checkRows i) effect s) := by
  obtain ⟨row, hm, -, e⟩ | ⟨-, e⟩ := runChecks_cases (s.checkRows i) effect s <;> rw [e]
  · exact .checkFailed hm
  · exact he

theorem stepReport_allocEffect (s : State) : StepReport s .alloc (allocEffect s) := by
  unfold allocEffect
  split
  · exact .succeeded rfl rfl
  · exact .checkFailed (row := ⟨decide (s.firstFree = none), .outOfMemory, .noFreeSlot⟩) List.mem_cons_self

theorem stepReport_startBlocks (s : State) (n : Nat) : StepReport s (.update n) (startBlocks s) := by
  unfold startBlocks
  split
  · exact .succeeded rfl rfl
  · exact .goesOn rfl

theorem stepReport_copyEffect (s : State) (t r : Nat) : StepReport s (.copy t r) (copyEffect t r s) := by
  unfold copyEffect
  split <;> exact .succeeded rfl rfl

/-- The EXEC_INIT step succeeds, or fails with BUS_ERROR or KEY_EXPAND (41_alloc_init.md R148, R150). -/
theorem stepReport_initExec (s : State) (n : Nat) (d : Dir) : StepReport s (.init n d) (initExec n d s) := by
  obtain ⟨-, e⟩ | ⟨-, -, e⟩ := initExec_cases n d s <;> rw [e]
  · exact .initFailed (.inr rfl) rfl
  · change StepReport s _ (expandAndCommit n d (s.initLoaded n d))
    obtain ⟨-, e⟩ | ⟨-, -, e⟩ := expandAndCommit_cases n d (s.initLoaded n d) <;> rw [e]
    · exact .initFailed (.inl rfl) (initLoaded_length s n d)
    · exact .succeeded rfl rfl

/-- The EXEC_BLOCK step goes on, succeeds, or fails with BUS_ERROR or BLOCK_XFORM (42_update.md R160, R168). -/
theorem stepReport_blockStep (s : State) (n : Nat) : StepReport s (.update n) (blockStep n s) := by
  obtain ⟨-, e⟩ | ⟨-, -, e⟩ | ⟨-, -, -, e⟩ | ⟨-, -, -, e⟩ := blockStep_cases n s <;> rw [e]
  · exact .updateFailed (.inr rfl) rfl
  · exact .updateFailed (.inl rfl) rfl
  · exact .updateFailed (.inr rfl) rfl
  · change StepReport s _ (nextBlock (s.blockStored n))
    obtain ⟨-, e⟩ | ⟨-, e⟩ := nextBlock_cases (s.blockStored n) <;> rw [e]
    · exact .succeeded rfl rfl
    · exact .goesOn (blockStored_status s n)

/-- What any engine step of a command reports: the inversion of `exec` by report (60_exceptions.md R232). -/
theorem stepReport_of_exec {s t : State} {i : Instr} (h : exec i s = .next t) : StepReport s i t := by
  cases i with
  | alloc => exact Host.Outcome.next.inj h ▸ stepReport_runChecks (stepReport_allocEffect s)
  | init n d =>
    by_cases hp : s.phase = .execInit
    · rw [exec, execInit, hp] at h
      exact Host.Outcome.next.inj h ▸ stepReport_initExec s n d
    · rw [exec, execInit_check n d hp] at h
      exact Host.Outcome.next.inj h ▸ stepReport_runChecks (.goesOn rfl)
  | update n =>
    by_cases hp : s.phase = .execBlock
    · rw [exec, execUpdate_block n hp] at h
      exact Host.Outcome.next.inj h ▸ stepReport_blockStep s n
    · rw [exec, execUpdate_check n hp] at h
      exact Host.Outcome.next.inj h ▸ stepReport_runChecks (stepReport_startBlocks s n)
  | final n => exact Host.Outcome.next.inj h ▸ stepReport_runChecks (.succeeded rfl rfl)
  | free n => exact Host.Outcome.next.inj h ▸ stepReport_runChecks (.succeeded rfl rfl)
  | copy n r => exact Host.Outcome.next.inj h ▸ stepReport_runChecks (stepReport_copyEffect s n r)

/-- The columns of R232 for a failed check: the pairs that the checks of each command report. -/
theorem checkRows_pair {s : State} {i : Instr} {row : CheckRow} (hm : row ∈ s.checkRows i) :
    (row.result = .badParameters ∧
      ((row.cause = .slotRange ∧ i ≠ .alloc) ∨
       ((row.cause = .keyLen ∨ row.cause = .ivLen) ∧ ∃ n d, i = .init n d) ∨
       (row.cause = .dataLen ∧ ∃ n, i = .update n) ∨
       (row.cause = .addrRange ∧ ((∃ n d, i = .init n d) ∨ ∃ n, i = .update n)))) ∨
    (row.result = .badState ∧ row.cause = .seq ∧ i ≠ .alloc) ∨
    (row.result = .outOfMemory ∧ row.cause = .noFreeSlot ∧ i = .alloc) := by
  cases i with
  | alloc =>
    cases List.mem_singleton.1 hm
    exact .inr (.inr ⟨rfl, rfl, rfl⟩)
  | init n d =>
    simp only [State.checkRows, initChecks, List.mem_cons, List.not_mem_nil, or_false] at hm
    obtain rfl | rfl | rfl | rfl | rfl := hm <;> simp [slotRangeRow, seqRow]
  | update n =>
    simp only [State.checkRows, updateChecks, List.mem_cons, List.not_mem_nil, or_false] at hm
    obtain rfl | rfl | rfl | rfl := hm <;> simp [slotRangeRow, seqRow]
  | final n | free n =>
    simp only [State.checkRows, finalChecks, freeChecks, List.mem_cons, List.not_mem_nil, or_false] at hm
    obtain rfl | rfl := hm <;> simp [slotRangeRow, seqRow]
  | copy n r =>
    simp only [State.checkRows, copyChecks, List.mem_cons, List.not_mem_nil, or_false] at hm
    obtain rfl | rfl | rfl | rfl := hm <;> simp [slotRangeRow, seqRow]

/-- Settles O31: a failed check completes and leaves the slots, a failure in execution strikes the command's slot. -/
theorem reportsFollowTheTable : Obligations.ReportsFollowTheTable := by
  intro s t i _ hb h hend
  cases stepReport_of_exec h with
  | goesOn hs => exact nomatch (hs ▸ hb).symm.trans hend
  | succeeded hr hc => exact .inl ⟨hr, hc⟩
  | checkFailed hm =>
    obtain ⟨hr, hc⟩ | ⟨hr, hc, hi⟩ | ⟨hr, hc, hi⟩ := checkRows_pair hm
    · exact .inr (.inl ⟨hr, rfl, hc⟩)
    · exact .inr (.inr (.inl ⟨hr, hc, rfl, hi⟩))
    · exact .inr (.inr (.inr (.inr ⟨hr, hc, rfl, hi⟩)))
  | @initFailed n d c u hc hu =>
    have hf : n < s.slots.length → ((u.fail n c).slot n).state = .failed := fun hn => slot_fail_state c (hu ▸ hn)
    refine .inr (.inr (.inr (.inl ⟨rfl, ?_⟩)))
    obtain rfl | rfl := hc
    · exact .inl ⟨rfl, n, d, rfl, hf⟩
    · exact .inr (.inr ⟨rfl, n, .inr ⟨d, rfl⟩, hf⟩)
  | @updateFailed n c u hc hu =>
    have hf : n < s.slots.length → ((u.fail n c).slot n).state = .failed := fun hn => slot_fail_state c (hu ▸ hn)
    refine .inr (.inr (.inr (.inl ⟨rfl, ?_⟩)))
    obtain rfl | rfl := hc
    · exact .inr (.inl ⟨rfl, n, rfl, hf⟩)
    · exact .inr (.inr ⟨rfl, n, .inl rfl, hf⟩)

end Sys2Proof.Machine

/-! ## Buffer races -/

namespace Sys2Proof.Machine

/-- A host access within the address space and off a mapped window that touches a byte of the in-flight buffer set stops
as a hazard fault (20_memory.md R76, 70_reset_and_hazards.md R278; log entries 10, 12). -/
theorem hostMemStop_eq_bufferRace {s : State} {a b n : Nat} (hb : s.inFlightByte b) (hab : a ≤ b) (hbn : b < a + n)
    (hw : s.params.windowMapped = false ∨ Region.meets (windowRegion s.params) a n = false) (ha : a + n ≤ 2 ^ 32) :
    hostMemStop s a n = some (.fault .bufferRace) := by
  have hrace : s.races a n = true := (races_iff s a n).2 ⟨b, hab, hbn, hb⟩
  have hwin : (s.params.windowMapped && Region.meets (windowRegion s.params) a n) = false :=
    Bool.and_eq_false_iff.2 hw
  rw [hostMemStop, if_neg (by omega), if_neg (Bool.eq_false_iff.1 hwin), if_pos hrace]

/-- Settles O36: a read and a write meet the same stop condition. -/
theorem bufferRacesAreFaults : Obligations.BufferRacesAreFaults := by
  rintro s a b _ bs hb hw ha hab hbk rfl
  have hstop := hostMemStop_eq_bufferRace hb hab hbk hw ha
  exact ⟨by rw [hostStep, hostReadMem, hstop], by rw [hostStep, hostWriteMem, hstop]⟩

end Sys2Proof.Machine

/-! ## Reset -/

namespace Sys2Proof.Machine

/-- The turn of the platform's reset (70_reset_and_hazards.md R270). -/
theorem step_reset {s : State} {rest : List Input} (h : s.inputs = .reset :: rest) :
    step s = .next (State.platformReset { s with inputs := rest }) := by
  rw [step, h]

/-- A reset leaves memory as it is unless a block write can be under way: in EXEC_BLOCK, with a read and a backend call
that succeed (42_update.md R161, R162, R168; log entry 15). -/
theorem abandonWrite_mem {s : State}
    (h : s.phase ≠ .execBlock ∨ rangeOk s.params s.blockIn s.params.blockBytes = false ∨ s.nextCallFails = true) :
    s.abandonWrite.mem = s.mem := by
  obtain ⟨-, e⟩ | ⟨-, -, -, e⟩ | ⟨hp, hr, hf, -⟩ := abandonWrite_cases s
  · rw [e]
  · rw [e]
    rfl
  · simp [hp, hr, hf] at h

/-- A reset changes no byte outside the destination bytes of block L.I (70_reset_and_hazards.md R272). -/
theorem onlyBytes_abandonWrite {s : State} (hm : Memory.wf s.mem = true) :
    s.onlyBytes s.abandonWrite s.blockOut s.params.blockBytes := by
  obtain ⟨-, e⟩ | ⟨-, -, -, e⟩ | ⟨-, -, -, e⟩ := abandonWrite_cases s <;> rw [e]
  · exact fun _ _ => rfl
  · exact fun _ _ => rfl
  · exact onlyBytes_scramble (s := s.countCall) hm _ _

@[simp] theorem abandonWrite_inputs (s : State) : s.abandonWrite.inputs = s.inputs := by
  obtain ⟨-, e⟩ | ⟨-, -, -, e⟩ | ⟨-, -, -, e⟩ := abandonWrite_cases s <;> rw [e] <;> rfl

section PlatformReset

variable (s : State)

@[simp] theorem platformReset_params : s.platformReset.params = s.params := abandonWrite_params s
@[simp] theorem platformReset_inputs : s.platformReset.inputs = s.inputs := abandonWrite_inputs s

@[simp] theorem platformReset_slots :
    s.platformReset.slots = List.replicate s.params.numSlots (Slot.erased s.params.blockBytes) := by
  simp [State.platformReset, State.clearController]

@[simp] theorem platformReset_keybuf : s.platformReset.keybuf = zeros s.params.keyBytes := by
  simp [State.platformReset, State.clearController]

@[simp] theorem platformReset_ivbuf : s.platformReset.ivbuf = zeros s.params.blockBytes := by
  simp [State.platformReset, State.clearController]

end PlatformReset

/-- Settles O8: the controller is cleared, and memory differs at most where a block write can be under way. -/
theorem resetDuringACommandTouchesOneBlock : Obligations.ResetDuringACommandTouchesOneBlock := by
  intro s rest hm hi _
  have hkeep (h : s.phase ≠ .execBlock ∨ rangeOk s.params s.blockIn s.params.blockBytes = false ∨
      s.nextCallFails = true) : (State.platformReset { s with inputs := rest }).mem = s.mem :=
    abandonWrite_mem (s := { s with inputs := rest }) h
  refine ⟨_, step_reset hi, rfl, rfl, rfl, fun n _ => slot_platformReset _ n, fun _ => ?_, fun h a => ?_, fun h a => ?_⟩
  · exact onlyBytes_abandonWrite (s := { s with inputs := rest }) hm
  · rw [hkeep (.inr h)]
  · rw [hkeep (.inl h)]

/-- Settles O7: each field of the cleared controller, and memory where no block is at hand. -/
theorem platformResetClearsTheController : Obligations.PlatformResetClearsTheController := by
  intro s rest hi
  refine ⟨_, step_reset hi, rfl, rfl, rfl, rfl, rfl, platformReset_slots _, rfl, rfl, platformReset_keybuf _,
    platformReset_ivbuf _, rfl, platformReset_params _, platformReset_inputs _, ?_, rfl, fun hp => ?_⟩
  · exact congrArg paramWord (platformReset_params { s with inputs := rest })
  · exact abandonWrite_mem (s := { s with inputs := rest }) (.inl hp)

end Sys2Proof.Machine
